-- ==== Sys2Proof/Word.lean ====
section
/-! DEFINITION. The word types of the block: every value is unsigned (R12, R13). -/

namespace Sys2Proof

/-- `u8` of R13: serial data, serial control, status codes, opcodes, store bytes. -/
abbrev Byte := BitVec 8

/-- `u16` of R13: the transfer counter (R12, R28). -/
abbrev Half := BitVec 16

/-- `u32` of R13: `elapsed_cycles`, `L.ACC`, `L.LOG_COUNT` (R12, R39, R40). -/
abbrev Word := BitVec 32

end Sys2Proof
end

