-- ==== Sys2Proof/Syntax.lean ====
section
/-! DEFINITION. One constructor per row of spec/opcode_table.json: the nine frames of R66 and the nineteen
micro-operations of R77. -/

namespace Sys2Proof

/-- The instructions. A frame carries its operand bytes as R67 to R75 give them; a micro-operation has no
operand of its own (an UPDATE's operands stand in `L.CMD`, R32). -/
inductive Instr where
  /-- R67, `01`. -/
  | attach
  /-- R68, `04`. -/
  | detach
  /-- R69, `05`. -/
  | query
  /-- R70, `10 e e e e d c`: `elapsed_cycles`, the host's SB, the host's SC. -/
  | update (e : Word) (d c : Byte)
  /-- R71, `81 status slot`. -/
  | attachRsp (status slot : Byte)
  /-- R72, `84 status`. -/
  | detachRsp (status : Byte)
  /-- R73, `85 disc`. -/
  | queryRsp (disc : Bool)
  /-- R74, `90 nd nc flags status`, flags bit 0 `irq` and bit 1 `disc`. -/
  | updateRsp (nd nc : Byte) (irq disc : Bool) (status : Byte)
  /-- R75, `FF status`. -/
  | errorRsp (status : Byte)
  /-- R82. -/
  | createOrOpen
  /-- R83. -/
  | initRegion
  /-- R84. -/
  | publish
  /-- R85. -/
  | pollInit
  /-- R86. -/
  | claimSlot
  /-- R88. -/
  | detachExec
  /-- R110. -/
  | lockAcquire
  /-- R111. -/
  | commit
  /-- R114. -/
  | unlinkedExec
  /-- R115. -/
  | queryExec
  /-- R125. -/
  | pOpen
  /-- R127. -/
  | pUpdate
  /-- R128. -/
  | pClose
  /-- R129. -/
  | cSendAttach
  /-- R130. -/
  | cRecvAttach
  /-- R131. -/
  | cUpdate
  /-- R132. -/
  | cClose
  /-- R116. -/
  | trivialExec
  /-- R117. -/
  | illegalExec
  deriving DecidableEq, Repr

/-- What an instruction of the table is: a request frame, a response frame (bit 7 of the opcode, R65) or a
micro-operation (R77). -/
inductive Kind where
  | request
  | response
  | uop
  deriving DecidableEq, Repr

/-- The kind of each row (the table's `direction` and `kind`). -/
def Instr.kind : Instr → Kind
  | .attach => .request
  | .detach => .request
  | .query => .request
  | .update _ _ _ => .request
  | .attachRsp _ _ => .response
  | .detachRsp _ => .response
  | .queryRsp _ => .response
  | .updateRsp _ _ _ _ _ => .response
  | .errorRsp _ => .response
  | .createOrOpen => .uop
  | .initRegion => .uop
  | .publish => .uop
  | .pollInit => .uop
  | .claimSlot => .uop
  | .detachExec => .uop
  | .lockAcquire => .uop
  | .commit => .uop
  | .unlinkedExec => .uop
  | .queryExec => .uop
  | .pOpen => .uop
  | .pUpdate => .uop
  | .pClose => .uop
  | .cSendAttach => .uop
  | .cRecvAttach => .uop
  | .cUpdate => .uop
  | .cClose => .uop
  | .trivialExec => .uop
  | .illegalExec => .uop

end Sys2Proof
end

