-- ==== Sys2Proof/Decode.lean ====
section
/-! DEFINITION. From bytes to instructions and back (30_encoding.md): the frames of R66 to R76, the rejected frames
of R79, and the trace codes of the micro-operations (R77). -/

namespace Sys2Proof

/-- Why bytes are no instruction. -/
inductive DecodeError where
  /-- No byte at all. The spec names no such case: the model's choice (log 28). -/
  | empty
  /-- R66, R79: the opcode byte has no length; every such value is reserved. -/
  | unknownOpcode (op : Byte)
  /-- R79: shorter than the opcode's length. -/
  | tooShort
  /-- R79: longer than the opcode's length. -/
  | tooLong
  /-- R73, R74: a bit that is always 0 is set. -/
  | reservedBits
  /-- R79: a response opcode that arrives as a request. -/
  | responseAsRequest
  /-- A request opcode where a response is taken. -/
  | requestAsResponse
  deriving DecidableEq, Repr

/-- R66: a frame's length in bytes, from its opcode byte alone. -/
def frameLength (op : Byte) : Option Nat :=
  if op = 0x01 then some 1
  else if op = 0x04 then some 1
  else if op = 0x05 then some 1
  else if op = 0x10 then some 7
  else if op = 0x81 then some 3
  else if op = 0x84 then some 2
  else if op = 0x85 then some 2
  else if op = 0x90 then some 5
  else if op = 0xFF then some 2
  else none

/-- R76: a 32-bit operand from its four little-endian bytes. -/
def leWord (f1 f2 f3 f4 : Byte) : Word :=
  f1.setWidth 32 ||| (f2.setWidth 32 <<< 8) ||| (f3.setWidth 32 <<< 16) ||| (f4.setWidth 32 <<< 24)

/-- R70: byte `k` (0 to 3) of a 32-bit operand, the least significant first. -/
def wordByte (e : Word) (k : Nat) : Byte :=
  e.extractLsb' (8 * k) 8

/-- R76: `flags = irq | (disc << 1)`. -/
def flagsByte (irq disc : Bool) : Byte :=
  (if irq then 0x01 else 0x00) ||| (if disc then 0x02 else 0x00)

/-- R73: the disc byte of QUERY_RSP. -/
def discByte (disc : Bool) : Byte :=
  if disc then 0x01 else 0x00

/-- The frame of opcode `op` with operand bytes `a`, the number of which already fits R66. -/
def frameOperands (op : Byte) (a : List Byte) : Except DecodeError Instr :=
  let arg := fun k => a.getD k 0
  if op = 0x01 then .ok .attach
  else if op = 0x04 then .ok .detach
  else if op = 0x05 then .ok .query
  else if op = 0x10 then .ok (.update (leWord (arg 0) (arg 1) (arg 2) (arg 3)) (arg 4) (arg 5))
  else if op = 0x81 then .ok (.attachRsp (arg 0) (arg 1))
  else if op = 0x84 then .ok (.detachRsp (arg 0))
  else if op = 0x85 then
    if arg 0 = 0x01 then .ok (.queryRsp true)
    else if arg 0 = 0x00 then .ok (.queryRsp false)
    else .error .reservedBits
  else if op = 0x90 then
    if (arg 2).extractLsb' 2 6 = 0 then
      .ok (.updateRsp (arg 0) (arg 1) ((arg 2).getLsbD 0) ((arg 2).getLsbD 1) (arg 3))
    else .error .reservedBits
  else if op = 0xFF then .ok (.errorRsp (arg 0))
  else .error (.unknownOpcode op)

/-- R65, R66: any bytes as one whole frame. An empty sequence has no opcode byte and is no frame (DESIGN CHOICE,
log 28). -/
def decodeFrame : List Byte → Except DecodeError Instr
  | [] => .error .empty
  | op :: a =>
    match frameLength op with
    | none => .error (.unknownOpcode op)
    | some n =>
      if a.length + 1 < n then .error .tooShort
      else if n < a.length + 1 then .error .tooLong
      else frameOperands op a

/-- R79: a frame a host hands over is legal only as one of the four requests. That a request of zero bytes is illegal too is
the model's choice (DESIGN CHOICE, log 28). -/
def decodeRequest (bs : List Byte) : Except DecodeError Instr :=
  match decodeFrame bs with
  | .error err => .error err
  | .ok i => if i.kind = .request then .ok i else .error .responseAsRequest

/-- A frame a host takes is one of the five responses (R65). -/
def decodeResponse (bs : List Byte) : Except DecodeError Instr :=
  match decodeFrame bs with
  | .error err => .error err
  | .ok i => if i.kind = .response then .ok i else .error .requestAsResponse

/-- R77: the micro-operation of a trace code. Codes 0x53 to 0xFF and 0x00 to 0x3F name none. -/
def decodeUop (code : Byte) : Option Instr :=
  if code = 0x40 then some .createOrOpen
  else if code = 0x41 then some .initRegion
  else if code = 0x42 then some .publish
  else if code = 0x43 then some .pollInit
  else if code = 0x44 then some .claimSlot
  else if code = 0x45 then some .detachExec
  else if code = 0x46 then some .lockAcquire
  else if code = 0x47 then some .commit
  else if code = 0x48 then some .unlinkedExec
  else if code = 0x49 then some .queryExec
  else if code = 0x4A then some .pOpen
  else if code = 0x4B then some .pUpdate
  else if code = 0x4C then some .pClose
  else if code = 0x4D then some .cSendAttach
  else if code = 0x4E then some .cRecvAttach
  else if code = 0x4F then some .cUpdate
  else if code = 0x50 then some .cClose
  else if code = 0x51 then some .trivialExec
  else if code = 0x52 then some .illegalExec
  else none

/-- A row of the opcode table from its bytes: a frame of R66 or the one-byte trace code of R77. The two share
no opcode byte. -/
def decode (bs : List Byte) : Except DecodeError Instr :=
  match bs with
  | [code] =>
    match decodeUop code with
    | some i => .ok i
    | none => decodeFrame bs
  | _ => decodeFrame bs

/-- The bytes of an instruction, in order (R66 to R77). -/
def encode : Instr → List Byte
  | .attach => [0x01]
  | .detach => [0x04]
  | .query => [0x05]
  | .update e d c => [0x10, wordByte e 0, wordByte e 1, wordByte e 2, wordByte e 3, d, c]
  | .attachRsp st slot => [0x81, st, slot]
  | .detachRsp st => [0x84, st]
  | .queryRsp disc => [0x85, discByte disc]
  | .updateRsp nd nc irq disc st => [0x90, nd, nc, flagsByte irq disc, st]
  | .errorRsp st => [0xFF, st]
  | .createOrOpen => [0x40]
  | .initRegion => [0x41]
  | .publish => [0x42]
  | .pollInit => [0x43]
  | .claimSlot => [0x44]
  | .detachExec => [0x45]
  | .lockAcquire => [0x46]
  | .commit => [0x47]
  | .unlinkedExec => [0x48]
  | .queryExec => [0x49]
  | .pOpen => [0x4A]
  | .pUpdate => [0x4B]
  | .pClose => [0x4C]
  | .cSendAttach => [0x4D]
  | .cRecvAttach => [0x4E]
  | .cUpdate => [0x4F]
  | .cClose => [0x50]
  | .trivialExec => [0x51]
  | .illegalExec => [0x52]

/-- Byte `k` of a table word: the first byte is bits 7:0. -/
def tableByte (w k : Nat) : Byte :=
  BitVec.ofNat 8 (w >>> (8 * k))

/-- How many bytes the table word `w` stands for: the whole bytes `nbits` holds, and no fewer than its opcode's
frame has (R66; the table may give operand bytes no bits). -/
def tableLength (nbits w : Nat) : Nat :=
  max ((nbits + 7) / 8) ((frameLength (tableByte w 0)).getD 1)

/-- The bytes of the table word `w`, the first at the lowest address. -/
def tableBytes (nbits w : Nat) : List Byte :=
  (List.range (tableLength nbits w)).map (tableByte w)

/-- The instruction the decoder reads from the table word `w`. -/
def decodeTableWord (nbits w : Nat) : Option Instr :=
  match decode (tableBytes nbits w) with
  | .ok i => some i
  | .error _ => none

end Sys2Proof
end

