-- ==== Sys2Proof/Config.lean ====
section
/-! DEFINITION. The configuration of a model instance (R6 to R11, R19), the values the spec leaves to it, and
the free values: opaque constants without a body. -/

namespace Sys2Proof

/-- The status codes of R136. Values 0x08 to 0xFF are reserved and never produced. -/
abbrev Status.ok : Byte := 0x00
/-- R138. -/
abbrev Status.transportUnavailable : Byte := 0x01
/-- R139. -/
abbrev Status.lockTimeout : Byte := 0x02
/-- R140. -/
abbrev Status.peerDisconnected : Byte := 0x03
/-- R141. -/
abbrev Status.malformedState : Byte := 0x04
/-- R142. -/
abbrev Status.notYetAvailable : Byte := 0x05
/-- R143. -/
abbrev Status.notAttached : Byte := 0x06
/-- R144. -/
abbrev Status.illegalCommand : Byte := 0x07

/-- The two sides (R2, R18). -/
inductive Side where
  | A
  | B
  deriving DecidableEq, Repr

/-- `MODE` of a side (R11). -/
inductive Mode where
  | unlinked
  | shm
  | pipeParent
  | pipeChild
  deriving DecidableEq, Repr

/-- The configuration of a model instance (R19): a run never changes it. -/
structure Params where
  /-- `MODE` of side A (R11). -/
  modeA : Mode
  /-- `MODE` of side B (R11). -/
  modeB : Mode
  /-- `TRANSFER_THRESHOLD`, 1 to 0xFFFF (R6). -/
  transferThreshold : Half
  /-- `INIT_POLL_LIMIT`, at least 1 (R7). -/
  initPollLimit : Nat
  /-- `FIFO_DEPTH`, at least 8 (R8). -/
  fifoDepth : Nat
  /-- `LOCK_MAY_FAIL_SPURIOUSLY` (R9). -/
  lockMayFailSpuriously : Bool
  /-- `SEGMENT_NAME` (R10); no rule depends on its value. -/
  segmentName : String
  deriving DecidableEq, Repr

/-- The MODE of side `X`. -/
def Params.mode (p : Params) : Side → Mode
  | .A => p.modeA
  | .B => p.modeB

/-- R11: the two sides' modes form (SHM, SHM), (PIPE_PARENT, PIPE_CHILD) or (UNLINKED, any).
DEDUCED (log 5): a pair is unordered. -/
def Params.legalModePair (p : Params) : Bool :=
  match p.modeA, p.modeB with
  | .shm, .shm => true
  | .pipeParent, .pipeChild => true
  | .pipeChild, .pipeParent => true
  | .unlinked, _ => true
  | _, .unlinked => true
  | _, _ => false

/-- The ranges R6, R7, R8 and the pairs of R11 together. -/
def Params.legal (p : Params) : Bool :=
  p.legalModePair && decide (1 ≤ p.transferThreshold.toNat) && decide (1 ≤ p.initPollLimit) &&
    decide (8 ≤ p.fifoDepth)

/-- Free value (log 1): whether the scheduler's n-th free choice is side B (R5, R57). -/
opaque Config.sideIsB : Nat → Bool

/-- Free value (log 2): the outcome of the n-th `draw` (R14, R56, R82, R125, R129). -/
opaque Config.draw : Nat → Bool

/-- Free value (log 3): `TRANSFER_THRESHOLD` − 1 of the launch instance (R6). -/
opaque Config.thresholdLessOne : Fin 0xFFFF

/-- Free value (log 3): `INIT_POLL_LIMIT` − 1 of the launch instance (R7). -/
opaque Config.pollLimitLessOne : Nat

/-- Free value (log 3): `FIFO_DEPTH` − 8 of the launch instance (R8). -/
opaque Config.fifoDepthLessEight : Nat

/-- Free value (log 3): `SEGMENT_NAME` of the launch instance (R10). -/
opaque Config.segmentName : String

/-- The instance that `State.reset` launches. The modes are a DESIGN CHOICE (log 4), the numeric parameters
and the name are free (log 3), and `LOCK_MAY_FAIL_SPURIOUSLY` has its default (R9). -/
def Config.launchParams : Params where
  modeA := .shm
  modeB := .shm
  transferThreshold := BitVec.ofNat 16 (Config.thresholdLessOne.val + 1)
  initPollLimit := Config.pollLimitLessOne + 1
  fifoDepth := Config.fifoDepthLessEight + 8
  lockMayFailSpuriously := true
  segmentName := Config.segmentName

end Sys2Proof
end

