-- ==== Sys2Proof/Machine/State.lean ====
section
/-! DEFINITION. The state of the block (10_state.md), of the two hosts as far as the contract speaks of them (R81,
R118), and the state at launch (R43). -/

namespace Sys2Proof.Machine

/-- The reasons a step stops with a fault. No run reaches either: both need a state that R89 rules out. -/
inductive Fault where
  /-- Raised by INIT_REGION, PUBLISH, DETACH_EXEC, COMMIT and P_UPDATE when they would access S while `S_EXISTS` is
  false: "While `S_EXISTS` is false, no rule reads S" (R20). Safe: the model stops (log 21). -/
  | noStore
  /-- Raised by DETACH_EXEC and COMMIT when `L.SLOT` is neither 0 nor 1: the slot they address has no offset in S
  (R34, R44). Safe: the model stops (log 21). -/
  | noSlot
  deriving DecidableEq, Repr

/-- The reasons a step is refused. -/
inductive Refusal where
  /-- Raised by an arm of exec whose instruction has no meaning yet. Safe. -/
  | notModelled (mnemonic : String)
  /-- Raised by step: the instance's two MODEs form no legal pair, and "A model instance with any other pair is
  refused" (R11). Safe. -/
  | illegalModePair
  /-- Raised by step: the bytes in a side's response port are no response frame. No run reaches it, since only
  `respond` writes the port, and it writes whole response frames (log 15). Safe. -/
  | undecodableResponse
  /-- Raised by step: the sequencer's code names no micro-operation (R77). No run reaches it. Safe. -/
  | unknownUop
  deriving DecidableEq, Repr

/-- A slot of the store (R23, R34). -/
inductive Slot where
  | zero
  | one
  deriving DecidableEq, Repr

/-- `L.SEQ` (R31). -/
inductive Seq where
  /-- Code 0: not attached. -/
  | detached
  /-- Code 1: the creator, INIT_REGION is next. -/
  | created
  /-- Code 2: the creator, PUBLISH is next. -/
  | initialized
  /-- Code 3: a joiner that polls INIT, or a child that waits for ATTACH_RSP. -/
  | joining
  /-- Code 4: a joiner that has seen INIT = 0x01. -/
  | publishedSeen
  /-- Code 5: the side holds slot `L.SLOT`. -/
  | attached
  /-- Code 6: PIPE modes only. -/
  | closed
  deriving DecidableEq, Repr

/-- `L.CMD` (R32), with the illegal frame that R117 lets it hold for one micro-operation. -/
inductive Cmd where
  | none
  | attach
  | detach
  | query
  | update (e : Word) (d c : Byte)
  | illegal
  deriving DecidableEq, Repr

/-- What a host does to its side: it hands over a request frame (R65), it runs the host loop step TICK (R81), or
its CPU writes SB or SC (R42, R164). -/
inductive HostAction where
  | frame (bytes : List Byte)
  | tick (e : Word)
  | writeSB (v : Byte)
  | writeSC (v : Byte)
  deriving DecidableEq, Repr

/-- The host of one side: its serial registers and what the contract R118 speaks of. The block owns none of it
(R42); log 10, 11, 14 and 15 say why the model holds it. -/
structure HostState where
  /-- What the host is going to do, in order (the model's own field). -/
  inbox : List HostAction
  /-- The response frame that `respond` handed over and the host has not taken yet (the model's own field). -/
  response : Option (List Byte)
  /-- The response frames the host received, in order (R16). -/
  received : List (List Byte)
  /-- Serial data, 0xFF01 (R42). -/
  sb : Byte
  /-- Serial control, 0xFF02 (R42). -/
  sc : Byte
  /-- Whether the last UPDATE response had flags bit 1 set (R118 item 4). -/
  lastDisc : Bool
  /-- How many times the host requested the Serial interrupt (R81, R118 item 3). -/
  serialRequests : Nat
  deriving DecidableEq, Repr

/-- The local state of one side (R31 to R40), and its host. -/
structure SideState where
  /-- `L.SEQ` (R31). -/
  seq : Seq
  /-- `L.CMD` (R32). -/
  cmd : Cmd
  /-- `L.SLOT` (R34): 0 or 1, valid only while ATTACHED. -/
  slot : Byte
  /-- `L.CREATOR` (R35). -/
  creator : Bool
  /-- `L.POLLS` (R36). -/
  polls : Nat
  /-- `L.GEN` (R37). -/
  gen : Nat
  /-- `L.DISC` (R38). -/
  disc : Bool
  /-- `L.LOG_COUNT` (R39). -/
  logCount : Word
  /-- `L.OUTSTANDING` (R40). -/
  outstanding : Bool
  /-- `L.ACC` (R40). -/
  acc : Word
  /-- The side's host (R18). -/
  host : HostState
  deriving DecidableEq, Repr

/-- One byte FIFO of PIPE mode (R22): the bytes in arrival order, and whether its writer closed it. -/
structure Fifo where
  bytes : List Byte
  closed : Bool
  deriving DecidableEq, Repr

/-- The bytes of the store S as (offset, byte) cells, in the canonical form that `Memory.wf` says. -/
abbrev Memory := List Host.Cell

/-- The whole machine. -/
structure State where
  /-- The configuration; a run never changes it (R19). -/
  cfg : Params
  /-- The side whose action is running (the model's own field, log 1). -/
  turn : Side
  /-- `S_EXISTS` (R20). -/
  storeExists : Bool
  /-- `S_GEN` (R20). -/
  storeGen : Nat
  /-- `S` (R20, R45). -/
  store : Memory
  /-- `LOCK_OWNER`, `none` for NONE (R21). -/
  lockOwner : Option Side
  /-- `C2P` and `C2P_CLOSED` (R22). -/
  c2p : Fifo
  /-- `P2C` and `P2C_CLOSED` (R22). -/
  p2c : Fifo
  /-- The local state of side A. -/
  sideA : SideState
  /-- The local state of side B. -/
  sideB : SideState
  /-- The sides still to be scheduled, in order; when it is empty the choice is free (the model's own field, log 1). -/
  schedule : List Side
  /-- The outcomes of the next draws; when it is empty they are free (the model's own field, log 2). -/
  oracle : List Bool
  /-- How many free values were used (the model's own field, log 1, 2). -/
  draws : Nat
  deriving DecidableEq, Repr

/-- A host at launch: SB and SC as on the DMG console (PRESUMED, log 11), nothing sent or received. -/
def HostState.launch : HostState where
  inbox := []
  response := .none
  received := []
  sb := 0x00
  sc := 0x7E
  lastDisc := false
  serialRequests := 0

/-- A side at launch (R43); `slot` and `gen` have no value there (DESIGN CHOICE 0, log 6, 7). -/
def SideState.launch : SideState where
  seq := .detached
  cmd := .none
  slot := 0x00
  creator := false
  polls := 0
  gen := 0
  disc := true
  logCount := 0
  outstanding := false
  acc := 0
  host := HostState.launch

/-- The launch state of an instance (R43, R158): no store, no lock, empty FIFOs, every side DETACHED. -/
def State.launch (p : Params) : State where
  cfg := p
  turn := .A
  storeExists := false
  storeGen := 0
  store := []
  lockOwner := .none
  c2p := ⟨[], false⟩
  p2c := ⟨[], false⟩
  sideA := SideState.launch
  sideB := SideState.launch
  schedule := []
  oracle := []
  draws := 0

/-- The machine right after reset: the launch state (R158) of the instance `Config.launchParams`. -/
def State.reset : State := State.launch Config.launchParams

end Sys2Proof.Machine
end

