-- ==== Sys2Proof/Machine/Operands.lean ====
section
/-! DEFINITION. The store's bytes and fields (R45 to R48), the operands of an UPDATE (R32, R76), and the frame at the
head of a FIFO (R123). -/

namespace Sys2Proof.Machine

/-- What a byte of an existing store reads as while nothing has been written to it: creation zero-fills all 16
bytes (R82, R125, R160). -/
def unlistedByte : Byte := 0x00

/-- The store has 16 bytes; "No offset beyond 0x0F exists" (R44). -/
def storeSize : Nat := 0x10

/-- The byte at offset `a` (R14, `MemRead(a, 1)`). -/
def Memory.read : Memory → Nat → Byte
  | [], _ => unlistedByte
  | (b, v) :: m, a => if a = b then v else Memory.read m a

/-- Writes the byte at offset `a` (R14, `MemWrite(a, 1, v)`), keeping the canonical form. -/
def Memory.write : Memory → Nat → Byte → Memory
  | [], a, v => if v = unlistedByte then [] else [(a, v)]
  | (b, w) :: m, a, v =>
    if a < b then
      if v = unlistedByte then (b, w) :: m else (a, v) :: (b, w) :: m
    else if a = b then
      if v = unlistedByte then m else (a, v) :: m
    else (b, w) :: Memory.write m a v

/-- Writes `v` to the `n` bytes from offset `a` (the zero fills of R82, R83 and R125). -/
def Memory.fill (m : Memory) (a : Nat) (v : Byte) : Nat → Memory
  | 0 => m
  | n + 1 => (Memory.fill m a v n).write (a + n) v

/-- The canonical form: offsets strictly rising and below 0x10, no entry equal to what an unlisted byte reads as. -/
def Memory.wf (m : Memory) : Bool :=
  decide (m.Pairwise (fun x y => x.1 < y.1)) &&
    m.all (fun x => decide (x.1 < storeSize) && decide (x.2 ≠ unlistedByte))

/-- `peer(s) = 1 - s` (R14). -/
def Slot.peer : Slot → Slot
  | .zero => .one
  | .one => .zero

/-- The slot's number as a byte (R34, R71). -/
def Slot.code : Slot → Byte
  | .zero => 0x00
  | .one => 0x01

/-- The slot a byte names, if any (R34). -/
def Slot.ofByte (b : Byte) : Option Slot :=
  if b = 0x00 then some .zero else if b = 0x01 then some .one else none

/-- `base(i) = 0x04 + 4·i` (R45). -/
def Slot.base : Slot → Nat
  | .zero => 0x04
  | .one => 0x08

/-- The offset of INIT (R45). -/
def initOffset : Nat := 0x00
/-- The offset of COUNTER's low byte (R45, R47). -/
def counterOffset : Nat := 0x0C
/-- The first offset of the protected region (R45). -/
def protectedOffset : Nat := 0x04

/-- `S.INIT` (R29). -/
def Memory.init (m : Memory) : Byte := m.read initOffset
/-- `S.ALIVE[i]` (R27). -/
def Memory.alive (m : Memory) (i : Slot) : Byte := m.read (i.base + 0)
/-- `S.DATA[i]` (R24). -/
def Memory.data (m : Memory) (i : Slot) : Byte := m.read (i.base + 1)
/-- `S.CONTROL[i]` (R25). -/
def Memory.control (m : Memory) (i : Slot) : Byte := m.read (i.base + 2)
/-- `S.PHASE[i]` (R26). -/
def Memory.phase (m : Memory) (i : Slot) : Byte := m.read (i.base + 3)
/-- `S.COUNTER`, little-endian (R28, R47). -/
def Memory.counter (m : Memory) : Half :=
  (m.read counterOffset).setWidth 16 ||| ((m.read (counterOffset + 1)).setWidth 16 <<< 8)

/-- `S.INIT <- v`. -/
def Memory.setInit (m : Memory) (v : Byte) : Memory := m.write initOffset v
/-- `S.ALIVE[i] <- v`. -/
def Memory.setAlive (m : Memory) (i : Slot) (v : Byte) : Memory := m.write (i.base + 0) v
/-- `S.DATA[i] <- v`. -/
def Memory.setData (m : Memory) (i : Slot) (v : Byte) : Memory := m.write (i.base + 1) v
/-- `S.CONTROL[i] <- v`. -/
def Memory.setControl (m : Memory) (i : Slot) (v : Byte) : Memory := m.write (i.base + 2) v
/-- `S.PHASE[i] <- v`. -/
def Memory.setPhase (m : Memory) (i : Slot) (v : Byte) : Memory := m.write (i.base + 3) v
/-- `S.COUNTER <- v`: bits 7:0 to 0x0C and bits 15:8 to 0x0D (R47). -/
def Memory.setCounter (m : Memory) (v : Half) : Memory :=
  (m.write counterOffset (v.extractLsb' 0 8)).write (counterOffset + 1) (v.extractLsb' 8 8)

/-- The phases of R26. -/
abbrev Phase.disconnected : Byte := 0x00
/-- R26. -/
abbrev Phase.ready : Byte := 0x01
/-- R26. -/
abbrev Phase.pending : Byte := 0x02
/-- R26. -/
abbrev Phase.transferring : Byte := 0x03
/-- R26. -/
abbrev Phase.complete : Byte := 0x04

/-- Whether the side is executing an UPDATE. -/
def Cmd.isUpdate : Cmd → Bool
  | .update _ _ _ => true
  | .none => false
  | .attach => false
  | .detach => false
  | .query => false
  | .illegal => false

/-- A frame at the head of C2P (R123). -/
inductive ChildFrame where
  | attach
  | detach
  | update (e : Word) (d c : Byte)
  | junk
  deriving DecidableEq, Repr

/-- `HEAD(C2P)` and the bytes behind it (R123). DEDUCED (log 17): the first bytes of a frame whose other bytes are
missing, which no run reaches, are junk bytes. -/
def headC2P : List Byte → Option (ChildFrame × List Byte)
  | [] => none
  | b :: q =>
    if b = 0x01 then some (.attach, q)
    else if b = 0x04 then some (.detach, q)
    else if b = 0x10 then
      match q with
      | e0 :: e1 :: e2 :: e3 :: d :: c :: rest => some (.update (leWord e0 e1 e2 e3) d c, rest)
      | _ => some (.junk, q)
    else some (.junk, q)

/-- A frame at the head of P2C (R123). The flags byte is kept as it came: the child reads its bits 0 and 1 (R131). -/
inductive ParentFrame where
  | attachRsp (status slot : Byte)
  | updateRsp (nd nc flags status : Byte)
  | errorRsp (status : Byte)
  | junk
  deriving DecidableEq, Repr

/-- `HEAD(P2C)` and the bytes behind it (R123; log 17 as for C2P). -/
def headP2C : List Byte → Option (ParentFrame × List Byte)
  | [] => none
  | b :: q =>
    if b = 0x81 then
      match q with
      | st :: slot :: rest => some (.attachRsp st slot, rest)
      | _ => some (.junk, q)
    else if b = 0x90 then
      match q with
      | nd :: nc :: fl :: st :: rest => some (.updateRsp nd nc fl st, rest)
      | _ => some (.junk, q)
    else if b = 0xFF then
      match q with
      | st :: rest => some (.errorRsp st, rest)
      | _ => some (.junk, q)
    else some (.junk, q)

end Sys2Proof.Machine
end

