-- ==== Sys2Proof/Machine/Flags.lean ====
section
/-! DEFINITION. The flag bits (R25, R76), the saturating sums (R15) and the malformed-state test (R145). -/

namespace Sys2Proof.Machine

/-- `CONTROL[7]`, the transfer-requested flag (R25). -/
def requests (c : Byte) : Bool := c.getLsbD 7

/-- `CONTROL[0]`, the clock-source flag: 1 is master (R25). -/
def isMaster (c : Byte) : Bool := c.getLsbD 0

/-- `c & 0x7F`: clears the transfer-requested flag (R98). -/
def clearRequest (c : Byte) : Byte := c &&& 0x7F

/-- `sat16(x) = min(x, 0xFFFF)`, with x computed exactly (R15). -/
def sat16 (x : Nat) : Half := BitVec.ofNat 16 (min x 0xFFFF)

/-- `sat32(x) = min(x, 0xFFFFFFFF)`, with x computed exactly (R15). -/
def sat32 (x : Nat) : Word := BitVec.ofNat 32 (min x 0xFFFFFFFF)

/-- `MALFORMED(S, s)` (R145). -/
def malformed (m : Memory) (s : Slot) : Bool :=
  decide (m.alive s ≠ 0x01) ||
  decide (m.alive s.peer ≠ 0x00 ∧ m.alive s.peer ≠ 0x01) ||
  decide (0x04 < (m.phase s).toNat) ||
  decide (m.alive s.peer = 0x01 ∧ 0x04 < (m.phase s.peer).toNat)

end Sys2Proof.Machine
end

