-- ==== Sys2Proof/Machine/Ops.lean ====
section
/-! DEFINITION. The named operations the meanings share: the acting side's local state, draws, the end of a command
(`respond`, the block's only way to report an error, R146), the host's reception, and the FIFOs. -/

namespace Sys2Proof.Machine

/-- What a meaning answers. -/
abbrev Result := Host.Outcome State Fault Refusal

/-- The other side. -/
def otherSide : Side → Side
  | .A => .B
  | .B => .A

/-- The local state of side `X`. -/
def State.side (s : State) : Side → SideState
  | .A => s.sideA
  | .B => s.sideB

/-- The state with side `X`'s local state replaced. -/
def State.setSide (s : State) (X : Side) (l : SideState) : State :=
  match X with
  | .A => { s with sideA := l }
  | .B => { s with sideB := l }

/-- `L`: the local state of the side that runs the µ-op (R14). -/
def State.me (s : State) : SideState := s.side s.turn

/-- `L <- l`, for the side that runs the µ-op (R14). -/
def State.setMe (s : State) (l : SideState) : State := s.setSide s.turn l

/-- `MODE` of the side that runs the µ-op (R11). -/
def State.mode (s : State) : Mode := s.cfg.mode s.turn

/-- The byte at offset `a` of the store, if S exists and has that offset (R20, R44). -/
def State.readByte (s : State) (a : Nat) : Option Byte :=
  if s.storeExists ∧ a < storeSize then some (s.store.read a) else none

/-- `draw` (R14): the next outcome. It is the head of `oracle`, and a free value where that list is empty (log 2). -/
def State.drawn (s : State) : Bool :=
  match s.oracle with
  | b :: _ => b
  | [] => Config.draw s.draws

/-- The state after one `draw`. -/
def State.afterDraw (s : State) : State :=
  match s.oracle with
  | _ :: bs => { s with oracle := bs }
  | [] => { s with draws := s.draws + 1 }

/-- The side that moves next: the head of `schedule`, and a free choice where that list is empty (R5, R57, log 1). -/
def State.nextSide (s : State) : Side :=
  match s.schedule with
  | X :: _ => X
  | [] => if Config.sideIsB s.draws then .B else .A

/-- The state in which the side that moves next has the turn. -/
def State.chooseSide (s : State) : State :=
  match s.schedule with
  | X :: rest => { s with turn := X, schedule := rest }
  | [] => { s with turn := s.nextSide, draws := s.draws + 1 }

/-- `respond(frame)` and `L.CMD <- NONE` (R14, R78): the command ends and the response frame is handed to the host.
This is the one operation that ends a command, with or without an error status: the block has no traps, saves nothing
and runs no handler (R146), and `raise Status(code)` is this with the status in the frame (R14). -/
def State.respond (s : State) (f : Instr) : State :=
  s.setMe { s.me with cmd := .none, host := { s.me.host with response := some (encode f) } }

/-- The host takes a response frame (R3, R16). -/
def State.receive (s : State) (f : Instr) : State :=
  s.setMe { s.me with
    host := { s.me.host with response := none, received := s.me.host.received ++ [encode f] } }

/-- The host's half of the loop step TICK (R81, R118 items 2 to 4): it writes nd to SB and nc to SC, requests the
Serial interrupt if irq is 1, and keeps the disc bit for its bus. -/
def HostState.writeBack (h : HostState) (nd nc : Byte) (irq disc : Bool) : HostState :=
  { h with sb := nd, sc := nc, lastDisc := disc,
           serialRequests := if irq then h.serialRequests + 1 else h.serialRequests }

/-- What the host's bus returns for a CPU read of SB: 0xFF while the last UPDATE response had flags bit 1 set (R118
item 4). -/
def HostState.busReadSB (h : HostState) : Byte := if h.lastDisc then 0xFF else h.sb

/-- The frame's command is taken: `L.CMD` holds it until the response (R32). -/
def State.issue (s : State) (cmd : Cmd) : State := s.setMe { s.me with cmd := cmd }

/-- Where a µ-op needs S: while S does not exist, no rule reads it (R20). -/
def needStore (s : State) (t : State) : Result :=
  if s.storeExists then .next t else .fault .noStore

/-- Where a µ-op needs S and the slot `L.SLOT` (R34). -/
def atOwnSlot (s : State) (k : Slot → Result) : Result :=
  if s.storeExists then
    match Slot.ofByte s.me.slot with
    | some i => k i
    | none => .fault .noSlot
  else .fault .noStore

/-- Where a µ-op has the operands of `L.CMD = UPDATE(e, d, c)` (R32). Without an UPDATE the side waits (log 12). -/
def onUpdate (s : State) (k : Word → Byte → Byte → Result) : Result :=
  match s.me.cmd with
  | .update e d c => k e d c
  | .none => .next s
  | .attach => .next s
  | .detach => .next s
  | .query => .next s
  | .illegal => .next s

/-- `room(q) = FIFO_DEPTH - |q|` (R122). -/
def Fifo.room (q : Fifo) (depth : Nat) : Nat := depth - q.bytes.length

/-- A push of one whole frame, or nothing (R123): nothing where the FIFO is closed or has no room for it (R122; DEDUCED,
log 18). -/
def Fifo.push (q : Fifo) (depth : Nat) (f : List Byte) : Fifo :=
  if q.closed ∨ q.room depth < f.length then q else { q with bytes := q.bytes ++ f }

/-- The child pushes a frame to C2P. -/
def State.pushC2P (s : State) (f : Instr) : State :=
  { s with c2p := s.c2p.push s.cfg.fifoDepth (encode f) }

/-- The parent pushes a frame to P2C. -/
def State.pushP2C (s : State) (f : Instr) : State :=
  { s with p2c := s.p2c.push s.cfg.fifoDepth (encode f) }

/-- The parent has popped a frame from C2P and `rest` is left (R123). -/
def State.popC2P (s : State) (rest : List Byte) : State :=
  { s with c2p := { s.c2p with bytes := rest } }

/-- The child has popped a frame from P2C and `rest` is left (R123). -/
def State.popP2C (s : State) (rest : List Byte) : State :=
  { s with p2c := { s.p2c with bytes := rest } }

/-- The writer closes C2P (R122). -/
def State.closeC2P (s : State) : State := { s with c2p := { s.c2p with closed := true } }

/-- The writer closes P2C (R122). -/
def State.closeP2C (s : State) : State := { s with p2c := { s.p2c with closed := true } }

/-- EOF on P2C: the FIFO is both empty and closed (R122). -/
def State.eofP2C (s : State) : Bool := s.p2c.bytes.isEmpty && s.p2c.closed

/-- `L.LOG_COUNT <- sat32(L.LOG_COUNT + 1)` (R39). -/
def SideState.logEvent (l : SideState) : SideState :=
  { l with logCount := sat32 (l.logCount.toNat + 1) }

/-- S is created: it exists, its generation is one higher and all 16 bytes are 0x00 (R82, R90, R125, R160). -/
def State.createStore (s : State) : State :=
  { s with storeExists := true, storeGen := s.storeGen + 1, store := Memory.fill [] 0x00 0x00 storeSize }

/-- S is destroyed: nothing of it survives (R88, R90, R128). -/
def State.destroyStore (s : State) : State :=
  { s with storeExists := false, store := [] }

/-- Whether the side's handle still names the existing store (R85, R86). -/
def State.storeIsMine (s : State) : Bool := s.storeExists && decide (s.storeGen = s.me.gen)

end Sys2Proof.Machine
end

