-- ==== Sys2Proof/Machine/Protocol.lean ====
section
/-! DEFINITION. STEP, the phase-transition state machine (41_protocol.md R91 to R103), stage by stage. -/

namespace Sys2Proof.Machine

/-- What STEP gives (R91). `discOut` is `none` for KEEP. -/
structure StepResult where
  store : Memory
  nd : Byte
  nc : Byte
  irq : Bool
  status : Byte
  discOut : Option Bool
  log : Bool
  deriving DecidableEq, Repr

/-- W1 (R92): nothing changes, and the event is logged. -/
def stageMalformed (m : Memory) (d c : Byte) : StepResult :=
  ⟨m, d, c, false, Status.malformedState, none, true⟩

/-- W2, delivery (R93). -/
def stageDeliver (m : Memory) (s : Slot) : StepResult :=
  ⟨m.setPhase s Phase.ready, m.data s, m.control s, true, Status.ok, some false, false⟩

/-- W3, the peer is absent (R94). -/
def stageAbsent (m : Memory) (s : Slot) (d c : Byte) : StepResult :=
  let m1 := if m.phase s = Phase.transferring then m.setCounter 0 else m
  ⟨m1.setPhase s Phase.disconnected, d, c, false, Status.peerDisconnected, some true, false⟩

/-- W4, recovery (R95): the store the next stages see. -/
def stageRecover (m : Memory) (s : Slot) : Memory :=
  if m.phase s = Phase.disconnected then m.setPhase s Phase.ready else m

/-- W5b, the exchange (R98). -/
def exchange (m : Memory) : Memory :=
  let d0 := m.data .zero
  let d1 := m.data .one
  let c0 := m.control .zero
  let c1 := m.control .one
  (((((((m.setData .zero d1).setData .one d0).setControl .zero (clearRequest c0)).setControl .one
    (clearRequest c1)).setPhase .zero Phase.complete).setPhase .one Phase.complete).setCounter 0)

/-- W5b, counting (R97): only a master's step advances COUNTER. -/
def advance (m : Memory) (s : Slot) (e : Word) : Memory :=
  if isMaster (m.control s) then m.setCounter (sat16 (m.counter.toNat + e.toNat)) else m

/-- W5b (R97, R98). -/
def stageTransfer (threshold : Half) (m : Memory) (s : Slot) (e : Word) (d c : Byte) : StepResult :=
  let m1 := advance m s e
  let m2 := if threshold.toNat ≤ m1.counter.toNat then exchange m1 else m1
  ⟨m2, d, c, false, Status.ok, some false, false⟩

/-- W5a, an abandoned transfer (R96): the store the next stage sees. -/
def abandon (m : Memory) (s : Slot) : Memory :=
  (m.setPhase s Phase.ready).setCounter 0

/-- W6, latching and the phase of the stepped slot (R99, R100). -/
def latch (m : Memory) (s : Slot) (d c : Byte) : Memory :=
  ((m.setData s d).setControl s c).setPhase s
    (if requests c && isMaster c then Phase.pending else Phase.ready)

/-- W6: whether a transfer starts, in the store that R100 left (R101). -/
def starts (m : Memory) (s : Slot) (c : Byte) : Bool :=
  decide (requests c = true ∧ requests (m.control s.peer) = true ∧
    (m.phase s.peer = Phase.ready ∨ m.phase s.peer = Phase.pending) ∧
    (m.phase s = Phase.pending ∨ m.phase s.peer = Phase.pending))

/-- W6 (R99, R100, R101). -/
def stageLatch (m : Memory) (s : Slot) (d c : Byte) : StepResult :=
  let m1 := latch m s d c
  let m2 :=
    if starts m1 s c then
      ((m1.setPhase s Phase.transferring).setPhase s.peer Phase.transferring).setCounter 0
    else m1
  ⟨m2, d, c, false, Status.ok, some false, false⟩

/-- STEP(S, s, e, d, c) (R91): the stages in their order; W4 and W5a fall through. -/
def protocolStep (threshold : Half) (m : Memory) (s : Slot) (e : Word) (d c : Byte) : StepResult :=
  if malformed m s then stageMalformed m d c
  else if m.phase s = Phase.complete then stageDeliver m s
  else if m.alive s.peer = 0x00 then stageAbsent m s d c
  else
    let m1 := stageRecover m s
    if m1.phase s = Phase.transferring then
      if m1.phase s.peer = Phase.transferring then stageTransfer threshold m1 s e d c
      else stageLatch (abandon m1 s) s d c
    else stageLatch m1 s d c

/-- What COMMIT and P_UPDATE do to the side's own fields after its STEP (R111, R112, R127). -/
def SideState.afterStep (l : SideState) (r : StepResult) : SideState :=
  let l1 := { l with disc := r.discOut.getD l.disc }
  if r.log then l1.logEvent else l1

/-- The side's own STEP, for slot `i`, and its response (R111, R127). -/
def State.ownStep (s : State) (i : Slot) (e : Word) (d c : Byte) : State :=
  let r := protocolStep s.cfg.transferThreshold s.store i e d c
  let l := s.me.afterStep r
  (({ s with store := r.store }).setMe l).respond (.updateRsp r.nd r.nc r.irq l.disc r.status)

end Sys2Proof.Machine
end

