-- ==== Sys2Proof/Machine/Sequencer.lean ====
section
/-! DEFINITION. The sequencer: when a µ-op or a host's frame is enabled (R77, R32), and which µ-op a command runs next
(R33, R78). -/

namespace Sys2Proof.Machine

/-- The pairs of command and L.SEQ that TRIVIAL_EXEC answers (R78, R116). -/
def trivialPair (mode : Mode) (cmd : Cmd) (seq : Seq) : Bool :=
  match mode, cmd, seq with
  | .unlinked, _, _ => false
  | _, .attach, .attached => true
  | _, .detach, .detached => true
  | _, .update _ _ _, .detached => true
  | .shm, _, .closed => false
  | _, .attach, .closed => true
  | _, .detach, .closed => true
  | _, .update _ _ _, .closed => true
  | _, _, _ => false

/-- `enabled when` of every instruction, for the side that has the turn (R77; the requests by R32 and R3). A response
frame can always be taken. -/
def enabled (s : State) : Instr → Bool
  | .attach => decide (s.me.cmd = .none ∧ s.me.host.response = none)
  | .detach => decide (s.me.cmd = .none ∧ s.me.host.response = none)
  | .query => decide (s.me.cmd = .none ∧ s.me.host.response = none)
  | .update _ _ _ => decide (s.me.cmd = .none ∧ s.me.host.response = none)
  | .attachRsp _ _ => true
  | .detachRsp _ => true
  | .queryRsp _ => true
  | .updateRsp _ _ _ _ _ => true
  | .errorRsp _ => true
  | .createOrOpen => decide (s.mode = .shm ∧ s.me.cmd = .attach ∧ s.me.seq = .detached)
  | .initRegion => decide (s.mode = .shm ∧ s.me.seq = .created)
  | .publish => decide (s.mode = .shm ∧ s.me.seq = .initialized)
  | .pollInit => decide (s.mode = .shm ∧ s.me.seq = .joining)
  | .claimSlot =>
    decide (s.mode = .shm ∧ s.me.seq = .publishedSeen ∧ (s.lockOwner = none ∨ s.storeIsMine = false))
  | .detachExec =>
    decide (s.mode = .shm ∧ s.me.cmd = .detach ∧ s.me.seq = .attached ∧ s.lockOwner = none)
  | .lockAcquire =>
    decide (s.mode = .shm ∧ s.me.cmd.isUpdate = true ∧ s.me.seq = .attached ∧ s.lockOwner ≠ some s.turn)
  | .commit => decide (s.mode = .shm ∧ s.me.cmd.isUpdate = true ∧ s.lockOwner = some s.turn)
  | .unlinkedExec =>
    decide (s.mode = .unlinked ∧ (s.me.cmd = .attach ∨ s.me.cmd = .detach ∨ s.me.cmd.isUpdate = true))
  | .queryExec => decide (s.me.cmd = .query)
  | .pOpen => decide (s.mode = .pipeParent ∧ s.me.cmd = .attach ∧ s.me.seq = .detached)
  | .pUpdate => decide (s.mode = .pipeParent ∧ s.me.cmd.isUpdate = true ∧ s.me.seq = .attached)
  | .pClose => decide (s.mode = .pipeParent ∧ s.me.cmd = .detach ∧ s.me.seq = .attached)
  | .cSendAttach =>
    decide (s.mode = .pipeChild ∧ s.me.cmd = .attach ∧ s.me.seq = .detached ∧
      (1 ≤ s.c2p.room s.cfg.fifoDepth ∨ s.drawn = true))
  | .cRecvAttach => decide (s.mode = .pipeChild ∧ s.me.cmd = .attach ∧ s.me.seq = .joining)
  | .cUpdate => decide (s.mode = .pipeChild ∧ s.me.cmd.isUpdate = true ∧ s.me.seq = .attached)
  | .cClose =>
    decide (s.mode = .pipeChild ∧ s.me.cmd = .detach ∧ s.me.seq = .attached ∧
      (1 ≤ s.c2p.room s.cfg.fifoDepth ∨ s.p2c.closed = true))
  | .trivialExec => trivialPair s.mode s.me.cmd s.me.seq
  | .illegalExec => decide (s.me.cmd = .illegal)

/-- A meaning that runs only while its instruction is enabled. "While P fails, the side waits" (R14): nothing changes
(DEDUCED, log 12, 13). -/
def whenEnabled (s : State) (i : Instr) (r : Result) : Result :=
  if enabled s i then r else .next s

/-- The µ-ops of an SHM command (R78). `holds` says whether the side holds the lock. -/
def selectShm (holds : Bool) : Cmd → Seq → Option Instr
  | .attach, .detached => some .createOrOpen
  | .attach, .created => some .initRegion
  | .attach, .initialized => some .publish
  | .attach, .joining => some .pollInit
  | .attach, .publishedSeen => some .claimSlot
  | .attach, .attached => some .trivialExec
  | .detach, .attached => some .detachExec
  | .detach, .detached => some .trivialExec
  | .update _ _ _, .attached => some (if holds then .commit else .lockAcquire)
  | .update _ _ _, .detached => some .trivialExec
  | _, _ => none

/-- The µ-ops of a PIPE_PARENT command (R78). -/
def selectParent : Cmd → Seq → Option Instr
  | .attach, .detached => some .pOpen
  | .attach, .attached => some .trivialExec
  | .attach, .closed => some .trivialExec
  | .update _ _ _, .attached => some .pUpdate
  | .update _ _ _, .detached => some .trivialExec
  | .update _ _ _, .closed => some .trivialExec
  | .detach, .attached => some .pClose
  | .detach, .detached => some .trivialExec
  | .detach, .closed => some .trivialExec
  | _, _ => none

/-- The µ-ops of a PIPE_CHILD command (R78). -/
def selectChild : Cmd → Seq → Option Instr
  | .attach, .detached => some .cSendAttach
  | .attach, .joining => some .cRecvAttach
  | .attach, .attached => some .trivialExec
  | .attach, .closed => some .trivialExec
  | .update _ _ _, .attached => some .cUpdate
  | .update _ _ _, .detached => some .trivialExec
  | .update _ _ _, .closed => some .trivialExec
  | .detach, .attached => some .cClose
  | .detach, .detached => some .trivialExec
  | .detach, .closed => some .trivialExec
  | _, _ => none

/-- The table of R78: the µ-op a side runs next, from its MODE, its command and its L.SEQ. A pair the table does not
list, which cannot arrive, runs nothing. -/
def select (mode : Mode) (holds : Bool) (cmd : Cmd) (seq : Seq) : Option Instr :=
  match cmd with
  | .none => none
  | .query => some .queryExec
  | .illegal => some .illegalExec
  | .attach | .detach | .update _ _ _ =>
    match mode with
    | .unlinked => some .unlinkedExec
    | .shm => selectShm holds cmd seq
    | .pipeParent => selectParent cmd seq
    | .pipeChild => selectChild cmd seq

/-- The µ-op the side that has the turn runs next (R33). -/
def State.selected (s : State) : Option Instr :=
  select s.mode (decide (s.lockOwner = some s.turn)) s.me.cmd s.me.seq

end Sys2Proof.Machine
end

