-- ==== Sys2Proof/Machine/Transport.lean ====
section
/-! DEFINITION. The shared transport: the attach handshake and detach (40_transport.md R82 to R90). -/

namespace Sys2Proof.Machine

/-- ATTACH ends without attaching in SHM mode: `L.SEQ <- DETACHED` and TRANSPORT_UNAVAILABLE (R85, R86, R138). -/
def State.attachFails (s : State) : State :=
  (s.setMe { s.me with seq := .detached }).respond (.attachRsp Status.transportUnavailable 0xFF)

/-- R82, after the draw. -/
def createOrOpen (s : State) (fail : Bool) : State :=
  if fail then s.respond (.attachRsp Status.transportUnavailable 0xFF)
  else if s.storeExists then
    s.setMe { s.me with creator := false, gen := s.storeGen, polls := 0, seq := .joining }
  else
    ({ s.createStore with lockOwner := none }).setMe
      { s.me with creator := true, gen := s.storeGen + 1, seq := .created }

/-- CREATE_OR_OPEN (R82). -/
def execCreateOrOpen (s : State) : Result :=
  whenEnabled s .createOrOpen (.next (createOrOpen s.afterDraw s.drawn))

/-- R83: the protected region is zeroed and the creator takes slot 0. -/
def initRegion (s : State) : State :=
  ({ s with store := (s.store.fill protectedOffset 0x00 12).setAlive .zero 0x01 }).setMe
    { s.me with slot := Slot.zero.code, seq := .initialized }

/-- INIT_REGION (R83). -/
def execInitRegion (s : State) : Result :=
  whenEnabled s .initRegion (needStore s (initRegion s))

/-- R84: INIT is published and the creator is attached. -/
def publish (s : State) : State :=
  (({ s with store := s.store.setInit 0x01 }).setMe { s.me with seq := .attached }).respond
    (.attachRsp Status.ok Slot.zero.code)

/-- PUBLISH (R84). -/
def execPublish (s : State) : Result :=
  whenEnabled s .publish (needStore s (publish s))

/-- R85: an attempt that did not see INIT = 0x01. -/
def pollAgain (s : State) : State :=
  if s.me.polls + 1 = s.cfg.initPollLimit then
    (s.setMe { s.me with polls := s.me.polls + 1 }).attachFails
  else s.setMe { s.me with polls := s.me.polls + 1 }

/-- R85: one poll of INIT. -/
def pollInit (s : State) : State :=
  if s.storeIsMine = false then s.attachFails
  else if s.store.init = 0x01 then s.setMe { s.me with seq := .publishedSeen }
  else pollAgain s

/-- POLL_INIT (R85). -/
def execPollInit (s : State) : Result :=
  whenEnabled s .pollInit (.next (pollInit s))

/-- The lowest slot whose ALIVE is 0x00 (R86). -/
def freeSlot (m : Memory) : Option Slot :=
  if m.alive .zero = 0x00 then some .zero
  else if m.alive .one = 0x00 then some .one
  else none

/-- A slot is claimed: ALIVE 0x01, DATA and CONTROL 0x00, PHASE DISCONNECTED (R86, R126). -/
def claim (m : Memory) (i : Slot) : Memory :=
  (((m.setAlive i 0x01).setData i 0x00).setControl i 0x00).setPhase i Phase.disconnected

/-- R86: the joiner claims the lowest free slot, or finds none. -/
def claimSlot (s : State) : State :=
  if s.storeIsMine = false then s.attachFails
  else
    match freeSlot s.store with
    | none => s.attachFails
    | some i =>
      (({ s with store := claim s.store i }).setMe { s.me with slot := i.code, seq := .attached }).respond
        (.attachRsp Status.ok i.code)

/-- CLAIM_SLOT (R86). -/
def execClaimSlot (s : State) : Result :=
  whenEnabled s .claimSlot (.next (claimSlot s))

/-- A slot is left: COUNTER 0 if it was TRANSFERRING, ALIVE 0x00, PHASE DISCONNECTED (R88, and R126 for slot 1). -/
def leaveSlot (m : Memory) (i : Slot) : Memory :=
  let m1 := if m.phase i = Phase.transferring then m.setCounter 0 else m
  (m1.setAlive i 0x00).setPhase i Phase.disconnected

/-- R88: the side leaves its slot, and the store is destroyed when the peer's ALIVE is 0x00. -/
def detachFrom (s : State) (i : Slot) : State :=
  let s1 := { s with store := leaveSlot s.store i }
  let s2 := if s1.store.alive i.peer = 0x00 then s1.destroyStore else s1
  (s2.setMe { s.me with seq := .detached, creator := false, disc := true }).respond (.detachRsp Status.ok)

/-- DETACH_EXEC (R88). -/
def execDetachExec (s : State) : Result :=
  whenEnabled s .detachExec (atOwnSlot s (fun i => .next (detachFrom s i)))

end Sys2Proof.Machine
end

