-- ==== Sys2Proof/Machine/Piped.lean ====
section
/-! DEFINITION. The piped-subprocess FIFO transport (43_fifo_transport.md R121 to R132). -/

namespace Sys2Proof.Machine

/-- A PIPE side becomes CLOSED without attaching: TRANSPORT_UNAVAILABLE or the status it was given (R125, R129,
R130). -/
def State.pipeAttachFails (s : State) (status : Byte) : State :=
  (s.setMe { s.me with seq := .closed }).respond (.attachRsp status 0xFF)

/-- R125, after the draw. -/
def pOpen (s : State) (fail : Bool) : State :=
  if fail then s.closeP2C.pipeAttachFails Status.transportUnavailable
  else
    let s1 := s.createStore
    let s2 := { s1 with store := (s1.store.setInit 0x01).setAlive .zero 0x01 }
    (s2.setMe { s.me with slot := Slot.zero.code, creator := true, gen := s1.storeGen, seq := .attached }).respond
      (.attachRsp Status.ok Slot.zero.code)

/-- P_OPEN (R125). -/
def execPOpen (s : State) : Result :=
  whenEnabled s .pOpen (.next (pOpen s.afterDraw s.drawn))

/-- R126: how many bytes of P2C the answer to a frame needs. -/
def serviceNeed : ChildFrame → Nat
  | .attach => 3
  | .update _ _ _ => 5
  | .detach => 0
  | .junk => 2

/-- R126: an ATTACH of the child. -/
def serviceAttach (s : State) : State :=
  if s.store.alive .one = 0x00 then
    ({ s with store := claim s.store .one }).pushP2C (.attachRsp Status.ok Slot.one.code)
  else s.pushP2C (.attachRsp Status.transportUnavailable 0xFF)

/-- R126: an UPDATE of the child, whose STEP runs for slot 1 with the parent as the executing agent. -/
def serviceUpdate (s : State) (e : Word) (d c : Byte) : State :=
  if s.store.alive .one = 0x01 then
    let r := protocolStep s.cfg.transferThreshold s.store .one e d c
    (({ s with store := r.store }).setMe (if r.log then s.me.logEvent else s.me)).pushP2C
      (.updateRsp r.nd r.nc r.irq (decide (r.discOut = some true)) r.status)
  else s.pushP2C (.updateRsp d c false true Status.notAttached)

/-- R126, after the frame was popped. -/
def serviceFrame (s : State) : ChildFrame → State
  | .attach => serviceAttach s
  | .update e d c => serviceUpdate s e d c
  | .detach => { s with store := leaveSlot s.store .one }
  | .junk => (s.setMe s.me.logEvent).pushP2C (.errorRsp Status.illegalCommand)

/-- SERVICE (R126): at most one frame from C2P. -/
def service (s : State) : State :=
  match headC2P s.c2p.bytes with
  | none =>
    if s.c2p.closed = true ∧ s.store.alive .one = 0x01 then { s with store := leaveSlot s.store .one } else s
  | some (f, rest) =>
    if s.p2c.room s.cfg.fifoDepth < serviceNeed f then s else serviceFrame (s.popC2P rest) f

/-- P_UPDATE (R127): SERVICE, then the parent's own STEP for slot 0. -/
def execPUpdate (s : State) : Result :=
  whenEnabled s .pUpdate (onUpdate s (fun e d c => needStore s ((service s).ownStep .zero e d c)))

/-- R128: the parent closes P2C and releases its store. -/
def pClose (s : State) : State :=
  (s.closeP2C.destroyStore.setMe { s.me with seq := .closed, creator := false, disc := true }).respond
    (.detachRsp Status.ok)

/-- P_CLOSE (R128). -/
def execPClose (s : State) : Result :=
  whenEnabled s .pClose (.next (pClose s))

/-- R129: the draw fails. -/
def cSendFails (s : State) : State :=
  s.closeC2P.pipeAttachFails Status.transportUnavailable

/-- R129: ATTACH is pushed. -/
def cSend (s : State) : State :=
  (s.pushC2P .attach).setMe { s.me with polls := 0, seq := .joining }

/-- C_SEND_ATTACH (R129). Where there is neither room nor a failing draw it waits, and the next attempt draws again
(log 19). -/
def execCSendAttach (s : State) : Result :=
  if s.mode = .pipeChild ∧ s.me.cmd = .attach ∧ s.me.seq = .detached then
    .next (if s.drawn then cSendFails s.afterDraw
      else if enabled s .cSendAttach then cSend s.afterDraw
      else s.afterDraw)
  else .next s

/-- R130: the child's ATTACH ends without attaching; the child closes its stream. -/
def cAttachFails (s : State) (status : Byte) : State :=
  s.closeC2P.pipeAttachFails status

/-- R130: a poll that brought no ATTACH_RSP. -/
def cPollAgain (s : State) : State :=
  let s1 := s.setMe { s.me with polls := s.me.polls + 1 }
  if s1.me.polls = s1.cfg.initPollLimit then cAttachFails s1 Status.transportUnavailable else s1

/-- R130: the child discards a frame and counts it. -/
def cDiscard (s : State) (rest : List Byte) : State :=
  (s.popP2C rest).setMe s.me.logEvent

/-- R130: one poll for the ATTACH_RSP. -/
def cRecv (s : State) : State :=
  match headP2C s.p2c.bytes with
  | some (.attachRsp st slot, rest) =>
    if st = Status.ok then
      ((s.popP2C rest).setMe { s.me with slot := slot, seq := .attached }).respond (.attachRsp Status.ok slot)
    else cAttachFails (s.popP2C rest) st
  | some (.updateRsp _ _ _ _, rest) => cPollAgain (cDiscard s rest)
  | some (.errorRsp _, rest) => cPollAgain (cDiscard s rest)
  | some (.junk, rest) => cPollAgain (cDiscard s rest)
  | none => if s.p2c.closed then cAttachFails s Status.transportUnavailable else cPollAgain s

/-- C_RECV_ATTACH (R130). -/
def execCRecvAttach (s : State) : Result :=
  whenEnabled s .cRecvAttach (.next (cRecv s))

/-- R131: `L.ACC <- sat32(L.ACC + e)`. -/
def cAccumulate (s : State) (e : Word) : State :=
  s.setMe { s.me with acc := sat32 (s.me.acc.toNat + e.toNat) }

/-- R131: EOF on P2C. -/
def cEof (s : State) (d c : Byte) : State :=
  (s.closeC2P.setMe { s.me with seq := .closed, disc := true, outstanding := false, acc := 0 }).respond
    (.updateRsp d c false true Status.peerDisconnected)

/-- R131: the next request is pushed, if none is outstanding. -/
def cRequest (s : State) (d c : Byte) : State :=
  if s.me.outstanding then s
  else (s.pushC2P (.update s.me.acc d c)).setMe { s.me with acc := 0, outstanding := true }

/-- R131: the end of a call without a delivery; `result` is the answer's status if one was popped. -/
def cAnswer (s : State) (d c : Byte) (result : Option Byte) : State :=
  let s1 := cRequest s d c
  s1.respond (.updateRsp d c false s1.me.disc (result.getD Status.notYetAvailable))

/-- R131: what an answer of the parent does to the child's own fields. -/
def SideState.answered (l : SideState) (fl st : Byte) : SideState :=
  { l with outstanding := false, disc := if st = Status.malformedState then l.disc else fl.getLsbD 1 }

/-- R131: an answer of the parent is popped. -/
def cAnswered (s : State) (d c nd nc fl st : Byte) : State :=
  let s1 := s.setMe (s.me.answered fl st)
  if fl.getLsbD 0 then s1.respond (.updateRsp nd nc true s1.me.disc st) else cAnswer s1 d c (some st)

/-- R131: the child looks for the answer to its outstanding request. -/
def cReceive (s : State) (d c : Byte) : State :=
  match headP2C s.p2c.bytes with
  | none => cAnswer s d c none
  | some (.updateRsp nd nc fl st, rest) => cAnswered (s.popP2C rest) d c nd nc fl st
  | some (.attachRsp _ _, rest) => cAnswer (cDiscard s rest) d c none
  | some (.errorRsp _, rest) => cAnswer (cDiscard s rest) d c none
  | some (.junk, rest) => cAnswer (cDiscard s rest) d c none

/-- R131, after the elapsed cycles were added. -/
def cUpdate (s : State) (d c : Byte) : State :=
  if s.eofP2C then cEof s d c
  else if s.me.outstanding then cReceive s d c
  else cAnswer s d c none

/-- C_UPDATE (R131). -/
def execCUpdate (s : State) : Result :=
  whenEnabled s .cUpdate (onUpdate s (fun e d c => .next (cUpdate (cAccumulate s e) d c)))

/-- R132: the child says DETACH, unless the parent has closed, and closes its stream. -/
def cClose (s : State) : State :=
  let s1 := if s.p2c.closed then s else s.pushC2P .detach
  (s1.closeC2P.setMe { s.me with seq := .closed, disc := true, outstanding := false, acc := 0 }).respond
    (.detachRsp Status.ok)

/-- C_CLOSE (R132). -/
def execCClose (s : State) : Result :=
  whenEnabled s .cClose (.next (cClose s))

end Sys2Proof.Machine
end

