-- ==== Sys2Proof/Machine/Port.lean ====
section
/-! DEFINITION. The port adapter and the arbitrated UPDATE (42_port_adapter.md R110 to R117). -/

namespace Sys2Proof.Machine

/-- An UPDATE that runs no STEP hands the host its own values back, with irq 0 and the current `L.DISC` (R110,
R113, R116). -/
def State.passThrough (s : State) (d c status : Byte) : State :=
  s.respond (.updateRsp d c false s.me.disc status)

/-- R110, once it is known whether the try may succeed. -/
def lockAcquire (s : State) (granted : Bool) (d c : Byte) : State :=
  if s.lockOwner = none ∧ granted = true then { s with lockOwner := some s.turn }
  else s.passThrough d c Status.lockTimeout

/-- R110, R56: the draw is made only where the lock may fail spuriously. -/
def tryLock (s : State) (d c : Byte) : State :=
  if s.cfg.lockMayFailSpuriously then lockAcquire s.afterDraw s.drawn d c
  else lockAcquire s true d c

/-- LOCK_ACQUIRE (R110). -/
def execLockAcquire (s : State) : Result :=
  whenEnabled s .lockAcquire (onUpdate s (fun _ d c => .next (tryLock s d c)))

/-- R111: STEP under the lock, and the lock's release. -/
def commitUpdate (s : State) (i : Slot) (e : Word) (d c : Byte) : State :=
  ({ s with lockOwner := none }).ownStep i e d c

/-- COMMIT (R111). -/
def execCommit (s : State) : Result :=
  whenEnabled s .commit (onUpdate s (fun e d c => atOwnSlot s (fun i => .next (commitUpdate s i e d c))))

/-- R114: the answers of an UNLINKED side. -/
def unlinkedAnswer (s : State) : State :=
  match s.me.cmd with
  | .update _ d c => s.respond (.updateRsp d c false true Status.ok)
  | .attach => s.respond (.attachRsp Status.ok 0xFF)
  | .detach => s.respond (.detachRsp Status.ok)
  | .none => s
  | .query => s
  | .illegal => s

/-- UNLINKED_EXEC (R114). -/
def execUnlinkedExec (s : State) : Result :=
  whenEnabled s .unlinkedExec (.next (unlinkedAnswer s))

/-- QUERY_EXEC (R115). -/
def execQueryExec (s : State) : Result :=
  whenEnabled s .queryExec (.next (s.respond (.queryRsp s.me.disc)))

/-- R116: the answers to the commands that find nothing to do. -/
def trivialAnswer (s : State) : State :=
  match s.me.cmd with
  | .update _ d c => s.passThrough d c Status.notAttached
  | .detach => s.respond (.detachRsp Status.ok)
  | .attach =>
    if s.me.seq = .attached then s.respond (.attachRsp Status.ok s.me.slot)
    else s.respond (.attachRsp Status.transportUnavailable 0xFF)
  | .none => s
  | .query => s
  | .illegal => s

/-- TRIVIAL_EXEC (R116). -/
def execTrivialExec (s : State) : Result :=
  whenEnabled s .trivialExec (.next (trivialAnswer s))

/-- ILLEGAL_EXEC (R117). -/
def execIllegalExec (s : State) : Result :=
  whenEnabled s .illegalExec (.next ((s.setMe s.me.logEvent).respond (.errorRsp Status.illegalCommand)))

end Sys2Proof.Machine
end

