-- ==== Sys2Proof/Machine/Request.lean ====
section
/-! DEFINITION. The request frames (R67 to R70): the host of the side that has the turn hands one over, and `L.CMD` holds
the command until its response (R3, R32). -/

namespace Sys2Proof.Machine

/-- ATTACH (R67): `L.CMD <- ATTACH`. -/
def execAttach (s : State) : Result :=
  whenEnabled s .attach (.next (s.issue .attach))

/-- DETACH (R68): `L.CMD <- DETACH`. -/
def execDetach (s : State) : Result :=
  whenEnabled s .detach (.next (s.issue .detach))

/-- QUERY (R69): `L.CMD <- QUERY`. -/
def execQuery (s : State) : Result :=
  whenEnabled s .query (.next (s.issue .query))

/-- UPDATE (R70): `L.CMD <- UPDATE(e, d, c)`. -/
def execUpdate (e : Word) (d c : Byte) (s : State) : Result :=
  whenEnabled s (.update e d c) (.next (s.issue (.update e d c)))

end Sys2Proof.Machine
end

