-- ==== Sys2Proof/Machine/Response.lean ====
section
/-! DEFINITION. The response frames (R71 to R75): the host of the side that has the turn takes one (R16). Only an
UPDATE_RSP does more: its values go back to SB and SC, and its irq to the interrupt controller (R81, R113, R118). -/

namespace Sys2Proof.Machine

/-- ATTACH_RSP (R71). -/
def execAttachRsp (status slot : Byte) (s : State) : Result :=
  .next (s.receive (.attachRsp status slot))

/-- DETACH_RSP (R72). -/
def execDetachRsp (status : Byte) (s : State) : Result :=
  .next (s.receive (.detachRsp status))

/-- QUERY_RSP (R73). -/
def execQueryRsp (disc : Bool) (s : State) : Result :=
  .next (s.receive (.queryRsp disc))

/-- UPDATE_RSP (R74, R113) and the host's write-back (R81, R118 items 2 to 4). -/
def execUpdateRsp (nd nc : Byte) (irq disc : Bool) (status : Byte) (s : State) : Result :=
  let t := s.receive (.updateRsp nd nc irq disc status)
  .next (t.setMe { t.me with host := t.me.host.writeBack nd nc irq disc })

/-- ERROR_RSP (R75). -/
def execErrorRsp (status : Byte) (s : State) : Result :=
  .next (s.receive (.errorRsp status))

end Sys2Proof.Machine
end

