-- ==== Sys2Proof/Machine/Dispatch.lean ====
section
/-! DEFINITION. One arm per row of spec/opcode_table.json. -/

namespace Sys2Proof.Machine

def exec (i : Instr) (s : State) : Host.Outcome State Fault Refusal :=
  match i with
  | .attach => Sys2Proof.Machine.execAttach s
  | .detach => Sys2Proof.Machine.execDetach s
  | .query => Sys2Proof.Machine.execQuery s
  | .update e d c => Sys2Proof.Machine.execUpdate e d c s
  | .attachRsp status slot => Sys2Proof.Machine.execAttachRsp status slot s
  | .detachRsp status => Sys2Proof.Machine.execDetachRsp status s
  | .queryRsp disc => Sys2Proof.Machine.execQueryRsp disc s
  | .updateRsp nd nc irq disc status => Sys2Proof.Machine.execUpdateRsp nd nc irq disc status s
  | .errorRsp status => Sys2Proof.Machine.execErrorRsp status s
  | .createOrOpen => Sys2Proof.Machine.execCreateOrOpen s
  | .initRegion => Sys2Proof.Machine.execInitRegion s
  | .publish => Sys2Proof.Machine.execPublish s
  | .pollInit => Sys2Proof.Machine.execPollInit s
  | .claimSlot => Sys2Proof.Machine.execClaimSlot s
  | .detachExec => Sys2Proof.Machine.execDetachExec s
  | .lockAcquire => Sys2Proof.Machine.execLockAcquire s
  | .commit => Sys2Proof.Machine.execCommit s
  | .unlinkedExec => Sys2Proof.Machine.execUnlinkedExec s
  | .queryExec => Sys2Proof.Machine.execQueryExec s
  | .pOpen => Sys2Proof.Machine.execPOpen s
  | .pUpdate => Sys2Proof.Machine.execPUpdate s
  | .pClose => Sys2Proof.Machine.execPClose s
  | .cSendAttach => Sys2Proof.Machine.execCSendAttach s
  | .cRecvAttach => Sys2Proof.Machine.execCRecvAttach s
  | .cUpdate => Sys2Proof.Machine.execCUpdate s
  | .cClose => Sys2Proof.Machine.execCClose s
  | .trivialExec => Sys2Proof.Machine.execTrivialExec s
  | .illegalExec => Sys2Proof.Machine.execIllegalExec s

end Sys2Proof.Machine
end

