-- ==== Sys2Proof/Machine/Fetch.lean ====
section
/-! DEFINITION. Where the next instruction of a side comes from (R3, R33, R78): the response its host has not taken, else
a frame its host hands over, else the µ-op its sequencer selects; and what one side then does. -/

namespace Sys2Proof.Machine

/-- What the side that has the turn does next. -/
inductive Fetched where
  /-- Nothing: its host issues no command, or its pair is none of R78's (R157). -/
  | idle
  /-- Its host takes a response frame. -/
  | response (bytes : List Byte)
  /-- Its host hands over a frame. -/
  | request (bytes : List Byte)
  /-- Its CPU writes SB (`true`) or SC (`false`) (R42). -/
  | cpuWrite (isSB : Bool) (v : Byte)
  /-- Its sequencer runs the µ-op of this trace code (R77). -/
  | uop (code : Byte)
  deriving DecidableEq, Repr

/-- The bytes a host hands over for the head of its inbox; TICK e is UPDATE e, SB, SC (R81). -/
def fetchInbox (h : HostState) : Fetched :=
  match h.inbox with
  | [] => .idle
  | .frame bytes :: _ => .request bytes
  | .tick e :: _ => .request (encode (.update e h.sb h.sc))
  | .writeSB v :: _ => .cpuWrite true v
  | .writeSC v :: _ => .cpuWrite false v

/-- The trace code of a µ-op (R77). -/
def uopCode (i : Instr) : Byte := (encode i).headD 0x00

/-- The next action of the side that has the turn. -/
def fetch (s : State) : Fetched :=
  match s.me.host.response with
  | some bytes => .response bytes
  | none =>
    if s.me.cmd = .none then fetchInbox s.me.host
    else
      match s.selected with
      | none => .idle
      | some i => .uop (uopCode i)

/-- The host has used the head of its inbox. -/
def State.popInbox (s : State) : State :=
  s.setMe { s.me with host := { s.me.host with inbox := s.me.host.inbox.tail } }

/-- A CPU write of SB or SC (R42, R164): it reaches the host's register only. -/
def State.cpuWrite (s : State) (isSB : Bool) (v : Byte) : State :=
  s.setMe { s.me with host := if isSB then { s.me.host with sb := v } else { s.me.host with sc := v } }

/-- A frame of R79: `L.CMD` holds it as ILLEGAL for one µ-op (R117). -/
def State.takeIllegal (s : State) : State := s.issue .illegal

/-- What the side that has the turn does: it runs the decoded instruction, or stays idle. -/
def runSide (s : State) : Result :=
  match fetch s with
  | .idle => .next s
  | .response bytes =>
    match decodeResponse bytes with
    | .ok i => exec i s
    | .error _ => .refused .undecodableResponse
  | .request bytes =>
    match decodeRequest bytes with
    | .ok i => exec i s.popInbox
    | .error _ => .next s.popInbox.takeIllegal
  | .cpuWrite isSB v => .next (s.popInbox.cpuWrite isSB v)
  | .uop code =>
    match decodeUop code with
    | some i => exec i s
    | none => .refused .unknownUop

/-- A position of the sequencer (R33) in which it selects a µ-op, for `placeUop`. -/
structure Placement where
  modeA : Mode
  modeB : Mode
  cmd : Cmd
  seq : Seq
  holdsLock : Bool
  storeExists : Bool
  deriving DecidableEq, Repr

/-- For each µ-op, the MODE, L.CMD, L.SEQ, LOCK_OWNER and S_EXISTS that its rule is enabled under (R77, R78; log 22). -/
def placement : Instr → Placement
  | .createOrOpen => ⟨.shm, .shm, .attach, .detached, false, false⟩
  | .initRegion => ⟨.shm, .shm, .attach, .created, false, true⟩
  | .publish => ⟨.shm, .shm, .attach, .initialized, false, true⟩
  | .pollInit => ⟨.shm, .shm, .attach, .joining, false, true⟩
  | .claimSlot => ⟨.shm, .shm, .attach, .publishedSeen, false, true⟩
  | .detachExec => ⟨.shm, .shm, .detach, .attached, false, true⟩
  | .lockAcquire => ⟨.shm, .shm, .update 0 0 0, .attached, false, true⟩
  | .commit => ⟨.shm, .shm, .update 0 0 0, .attached, true, true⟩
  | .unlinkedExec => ⟨.unlinked, .shm, .update 0 0 0, .detached, false, false⟩
  | .queryExec => ⟨.shm, .shm, .query, .detached, false, false⟩
  | .pOpen => ⟨.pipeParent, .pipeChild, .attach, .detached, false, false⟩
  | .pUpdate => ⟨.pipeParent, .pipeChild, .update 0 0 0, .attached, false, true⟩
  | .pClose => ⟨.pipeParent, .pipeChild, .detach, .attached, false, true⟩
  | .cSendAttach => ⟨.pipeChild, .pipeParent, .attach, .detached, false, false⟩
  | .cRecvAttach => ⟨.pipeChild, .pipeParent, .attach, .joining, false, false⟩
  | .cUpdate => ⟨.pipeChild, .pipeParent, .update 0 0 0, .attached, false, false⟩
  | .cClose => ⟨.pipeChild, .pipeParent, .detach, .attached, false, false⟩
  | .trivialExec => ⟨.shm, .shm, .detach, .detached, false, false⟩
  | .illegalExec => ⟨.shm, .shm, .illegal, .detached, false, false⟩
  | .attach => ⟨.shm, .shm, .none, .detached, false, false⟩
  | .detach => ⟨.shm, .shm, .none, .detached, false, false⟩
  | .query => ⟨.shm, .shm, .none, .detached, false, false⟩
  | .update _ _ _ => ⟨.shm, .shm, .none, .detached, false, false⟩
  | .attachRsp _ _ => ⟨.shm, .shm, .none, .detached, false, false⟩
  | .detachRsp _ => ⟨.shm, .shm, .none, .detached, false, false⟩
  | .queryRsp _ => ⟨.shm, .shm, .none, .detached, false, false⟩
  | .updateRsp _ _ _ _ _ => ⟨.shm, .shm, .none, .detached, false, false⟩
  | .errorRsp _ => ⟨.shm, .shm, .none, .detached, false, false⟩

/-- Side A moves next. -/
def State.scheduleA (s : State) : State := { s with schedule := .A :: s.schedule }

/-- Side A's host is about to hand over `bytes`. -/
def placeRequest (s : State) (bytes : List Byte) : State :=
  ({ s with sideA := { s.sideA with cmd := .none,
                                    host := { s.sideA.host with response := .none,
                                                                inbox := .frame bytes :: s.sideA.host.inbox } } }).scheduleA

/-- Side A's host is about to take the response frame `bytes`. -/
def placeResponse (s : State) (bytes : List Byte) : State :=
  ({ s with sideA := { s.sideA with host := { s.sideA.host with response := some bytes } } }).scheduleA

/-- Side A's sequencer is about to run the µ-op `i`. -/
def placeUop (s : State) (i : Instr) : State :=
  let p := placement i
  ({ s with
      cfg := { s.cfg with modeA := p.modeA, modeB := p.modeB }
      storeExists := p.storeExists
      lockOwner := if p.holdsLock then some .A else .none
      sideA := { s.sideA with cmd := p.cmd, seq := p.seq,
                              host := { s.sideA.host with response := .none } } }).scheduleA

/-- The table word placed where side A takes its next instruction (log 22). -/
def placeWord (s : State) (nbits w : Nat) : State :=
  match decodeTableWord nbits w with
  | some i =>
    match i.kind with
    | .request => placeRequest s (tableBytes nbits w)
    | .response => placeResponse s (tableBytes nbits w)
    | .uop => placeUop s i
  | none => placeRequest s (tableBytes nbits w)

end Sys2Proof.Machine
end

