-- ==== Sys2Proof/Machine/Step.lean ====
section
/-! DEFINITION. One step of the machine (R5): the side that moves next does its next action. -/

namespace Sys2Proof.Machine

/-- One step. An instance whose modes form no legal pair is refused (R11). -/
def step (s : State) : Host.Outcome State Fault Refusal :=
  if s.cfg.legalModePair then runSide s.chooseSide else .refused .illegalModePair

/-- The instruction of the table word `w` stored where the next step takes its instruction (log 22). -/
def State.withFetchWord (s : State) (nbits w : Nat) : State := placeWord s nbits w

end Sys2Proof.Machine
end

