-- ==== Sys2Proof/Safety.lean ====
section
/-! DEFINITION. What counts as a safe state, in the terms the statements use: the canonical store, the FIFO bounds (R22,
R124), the store invariants R104 to R106, the attachment invariant R89, and the frames of the effects. -/

namespace Sys2Proof.Machine

/-- The store keeps its canonical form, and has no bytes while it does not exist (R20, R90). -/
def State.storeCanonical (s : State) : Prop :=
  s.store.wf = true ∧ (s.storeExists = false → s.store = [])

/-- Each FIFO holds at most FIFO_DEPTH bytes (R22). -/
def State.fifosBounded (s : State) : Prop :=
  s.c2p.bytes.length ≤ s.cfg.fifoDepth ∧ s.p2c.bytes.length ≤ s.cfg.fifoDepth

/-- R104: `COUNTER ≠ 0` implies `PHASE[0] = PHASE[1] = TRANSFERRING`. -/
def counterOnlyInTransfer (m : Memory) : Prop :=
  m.counter ≠ 0 → m.phase .zero = Phase.transferring ∧ m.phase .one = Phase.transferring

/-- R105: `ALIVE[i] = 0x00` implies `PHASE[i] = DISCONNECTED`. -/
def freeSlotsDisconnected (m : Memory) : Prop :=
  ∀ i, m.alive i = 0x00 → m.phase i = Phase.disconnected

/-- R106: `PHASE[i] = READY` implies that not both bits 7 and 0 of `CONTROL[i]` are set. -/
def readySlotsAskNothing (m : Memory) : Prop :=
  ∀ i, m.phase i = Phase.ready → ¬ (requests (m.control i) = true ∧ isMaster (m.control i) = true)

/-- What R106 needs of the exchange (R98): a COMPLETE slot has its request bit clear. -/
def completeSlotsCleared (m : Memory) : Prop :=
  ∀ i, m.phase i = Phase.complete → requests (m.control i) = false

/-- R104, R105 and R106 together, with what makes them inductive. -/
def storeInvariant (m : Memory) : Prop :=
  counterOnlyInTransfer m ∧ freeSlotsDisconnected m ∧ readySlotsAskNothing m ∧ completeSlotsCleared m

/-- `L.SEQ` is CREATED or INITIALIZED: the side is creating the store (R31). -/
def Seq.creating (q : Seq) : Prop := q = .created ∨ q = .initialized

/-- What holds of an SHM side `X` in every run (R89, and what makes it inductive: R83, R85, R86). -/
def shmSideOk (s : State) (X : Side) : Prop :=
  (s.side X).gen ≤ s.storeGen ∧
  (s.side X).seq ≠ .closed ∧
  ((s.side X).seq.creating →
    s.storeExists = true ∧ (s.side X).gen = s.storeGen ∧ s.store.init ≠ 0x01) ∧
  ((s.side X).seq = .initialized → (s.side X).slot = 0x00 ∧ s.store.alive .zero = 0x01) ∧
  ((s.side X).seq = .publishedSeen → s.storeExists = true → (s.side X).gen = s.storeGen →
    s.store.init = 0x01) ∧
  ((s.side X).seq = .attached →
    s.storeExists = true ∧ (s.side X).gen = s.storeGen ∧ s.store.init = 0x01 ∧
    ∃ i, Slot.ofByte (s.side X).slot = some i ∧ s.store.alive i = 0x01) ∧
  ((s.side X).seq ≠ .detached → (s.side X).seq ≠ .attached → (s.side X).cmd = .attach)

/-- What holds of the two sides of one SHM store together: only one creates it, and they hold different slots. -/
def shmPairOk (s : State) : Prop :=
  ¬ (s.sideA.seq.creating ∧ s.sideB.seq.creating) ∧
  (s.sideA.seq = .attached → s.sideB.seq = .attached → s.sideA.slot ≠ s.sideB.slot)

/-- The lock is held only by an attached SHM side inside its UPDATE (R54, R110, R111). -/
def lockOk (s : State) : Prop :=
  ∀ X, s.lockOwner = some X →
    s.cfg.mode X = .shm ∧ (s.side X).seq = .attached ∧ (s.side X).cmd.isUpdate = true

/-- An attached pipe parent holds the store (R121, R125, R128). -/
def parentOk (s : State) (X : Side) : Prop := (s.side X).seq = .attached → s.storeExists = true

/-- What is in a response port is a response frame (R14, R65). -/
def responsesOk (s : State) : Prop :=
  ∀ X bytes, (s.side X).host.response = some bytes → ∃ i, decodeResponse bytes = .ok i

/-- The attachment invariant of the link, over the sides' modes (R89). -/
def linkOk (s : State) : Prop :=
  (∀ X, s.cfg.mode X = .shm → shmSideOk s X) ∧
  (s.cfg.modeA = .shm → s.cfg.modeB = .shm → shmPairOk s) ∧
  (∀ X, s.cfg.mode X = .pipeParent → parentOk s X) ∧
  lockOk s

/-- The states the model's runs stay in: a legal MODE pair, a canonical store, the link and the response ports in
order. -/
def State.safe (s : State) : Prop :=
  s.cfg.legalModePair = true ∧ s.storeCanonical ∧ linkOk s ∧ responsesOk s

/-- The bytes of an UPDATE request in C2P (R123). -/
def isUpdateRequest (q : List Byte) : Prop := ∃ e d c, q = encode (.update e d c)

/-- The bytes of an UPDATE_RSP in P2C (R123). -/
def isUpdateResponse (q : List Byte) : Prop := ∃ nd nc irq disc st, q = encode (.updateRsp nd nc irq disc st)

/-- The bytes of an ATTACH_RSP in P2C (R123). -/
def isAttachResponse (q : List Byte) : Prop := ∃ st slot, q = encode (.attachRsp st slot)

/-- What the two FIFOs `q` (C2P) and `r` (P2C) hold while the child is in state `l` (R124): nothing before ATTACH; ATTACH
or its answer while JOINING; at most one UPDATE or its answer while ATTACHED, and only while `L.OUTSTANDING`; and what was
left behind once CLOSED. -/
def pipeContents (l : SideState) (q r : List Byte) : Prop :=
  match l.seq with
  | .detached => q = [] ∧ r = [] ∧ l.outstanding = false
  | .joining => l.outstanding = false ∧ ((q = [0x01] ∧ r = []) ∨ (q = [] ∧ isAttachResponse r))
  | .attached =>
    (l.outstanding = false ∧ q = [] ∧ r = []) ∨
    (l.outstanding = true ∧ ((isUpdateRequest q ∧ r = []) ∨ (q = [] ∧ isUpdateResponse r)))
  | .closed =>
    (r = [] ∧ (q = [] ∨ q = [0x01] ∨ q = [0x04] ∨ isUpdateRequest q ∨ ∃ u, isUpdateRequest u ∧ q = u ++ [0x04])) ∨
    ((isUpdateResponse r ∨ isAttachResponse r) ∧ (q = [] ∨ q = [0x04]))
  | .created => False
  | .initialized => False
  | .publishedSeen => False

/-- The FIFOs of a conforming pair (R124) whose child is side `X`; a stream is closed only by a CLOSED side. -/
def pipeSideOk (s : State) (X : Side) : Prop :=
  pipeContents (s.side X) s.c2p.bytes s.p2c.bytes ∧
  (s.c2p.closed = true → (s.side X).seq = .closed) ∧
  (s.p2c.closed = true → s.cfg.mode (otherSide X) = .pipeParent → (s.side (otherSide X)).seq = .closed)

/-- The FIFO invariant of every legal instance; without a child both FIFOs are empty. -/
def pipeOk (s : State) : Prop :=
  (∀ X, s.cfg.mode X = .pipeChild → pipeSideOk s X) ∧
  (s.cfg.modeA ≠ .pipeChild → s.cfg.modeB ≠ .pipeChild → s.c2p.bytes = [] ∧ s.p2c.bytes = [])

/-- The frame of an action that changes at most the acting side's local state and the store's bytes: everything else is
as it was. -/
def sameElsewhere (s t : State) : Prop :=
  t.cfg = s.cfg ∧ t.turn = s.turn ∧ t.storeExists = s.storeExists ∧ t.storeGen = s.storeGen ∧
  t.lockOwner = s.lockOwner ∧ t.c2p = s.c2p ∧ t.p2c = s.p2c ∧
  t.side (otherSide s.turn) = s.side (otherSide s.turn) ∧
  t.schedule = s.schedule ∧ t.oracle = s.oracle ∧ t.draws = s.draws

/-- The local state after `respond` of the frame `bytes` and `L.CMD <- NONE` (R14). -/
def SideState.ended (l : SideState) (bytes : List Byte) : SideState :=
  { l with cmd := .none, host := { l.host with response := some bytes } }

/-- An action that changes at most the acting side's local state, to `l`: everything else is as it was, every byte of the
store among it. -/
def localOnly (s t : State) (l : SideState) : Prop :=
  sameElsewhere s t ∧ t.store = s.store ∧ t.me = l

/-- The bytes of slot `i`, read one by one, are `alive`, `data`, `control`, `phase`. -/
def slotReads (m : Memory) (i : Slot) (alive data control phase : Byte) : Prop :=
  m.read (i.base + 0) = alive ∧ m.read (i.base + 1) = data ∧ m.read (i.base + 2) = control ∧
  m.read (i.base + 3) = phase

/-- The store seen with slot 0 and slot 1 swapped (R109): `n` holds in each slot what `m` holds in the other, and the same
everywhere else. -/
def swappedStores (m n : Memory) : Prop :=
  n.wf = m.wf ∧
  (∀ i, slotReads n i (m.alive i.peer) (m.data i.peer) (m.control i.peer) (m.phase i.peer)) ∧
  (∀ a, a < 0x04 ∨ 0x0C ≤ a → n.read a = m.read a)

end Sys2Proof.Machine
end

