-- ==== Sys2Proof/Certificates/Slice0/Obligations.lean ====
section
/-! DEFINITION. The statements for the provers. The rule each formalises stands in its docstring and in
OBLIGATIONS.json. -/

open Sys2Proof Sys2Proof.Machine

/-! Encoding -/

/-- R66 to R77: bytes decode to an instruction exactly when they are its encoding, so every operand bit is kept, no two
instructions share an encoding, and every other byte string is rejected. That responses with a reserved bit set (a
QUERY_RSP byte above 1, UPDATE_RSP flags above 3) are among the rejected, and that reserved status bytes are kept whole, is
the model's reading (log 23), and so is that a µ-op's trace code decodes as a row of its own (log 27) and that no bytes at
all are rejected (log 28). -/
def Obligations.DecodeIffEncode : Prop :=
  ∀ (bs : List Byte) (i : Instr), decode bs = .ok i ↔ bs = encode i

/-- Words written out from R67 to R75 and R77 decode to what they stand for (95_test_vectors.md V-E4, V-E5, V-E9 to
V-E12). -/
def Obligations.SampleWordsDecode : Prop :=
  decode [0x10, 0x04, 0x00, 0x00, 0x00, 0xAB, 0x81] = .ok (.update 4 0xAB 0x81) ∧
  decode [0x10, 0x78, 0x56, 0x34, 0x12, 0x00, 0x00] = .ok (.update 0x12345678 0x00 0x00) ∧
  decode [0x90, 0xAB, 0x00, 0x01, 0x00] = .ok (.updateRsp 0xAB 0x00 true false 0x00) ∧
  decode [0x90, 0xAB, 0x81, 0x02, 0x03] = .ok (.updateRsp 0xAB 0x81 false true 0x03) ∧
  decode [0x81, 0x01, 0xFF] = .ok (.attachRsp 0x01 0xFF) ∧
  decode [0x47] = .ok .commit

/-- R79: what a host hands over is rejected exactly when its opcode is not 0x01, 0x04, 0x05 or 0x10, it is shorter or longer
than its opcode's length, or it is empty, which is the model's choice (log 28). -/
def Obligations.RejectedRequestsAreTheIllegalOnes : Prop :=
  (∃ err, decodeRequest [] = .error err) ∧
  ∀ (op : Byte) (a : List Byte), (∃ err, decodeRequest (op :: a) = .error err) ↔
    ((op ≠ 0x01 ∧ op ≠ 0x04 ∧ op ≠ 0x05 ∧ op ≠ 0x10) ∨
     ((op = 0x01 ∨ op = 0x04 ∨ op = 0x05) ∧ a.length + 1 ≠ 1) ∨
     (op = 0x10 ∧ a.length + 1 ≠ 7))

/-! The step -/

/-- A step runs the decoded instruction: the frame the host hands over (R65), the response it takes, or the µ-op the
sequencer selects (R33, R78). Around exec the step gives the chosen side the turn and takes a request out of the host's
inbox. A CPU write of SB or SC reaches the host's register only (R42), and a side with nothing to do stays as it is
(R157). That the hosts' actions are steps is the model's choice (log 10, 14). -/
def Obligations.StepRunsDecodedInstruction : Prop :=
  ∀ (s : State) (i : Instr), s.cfg.legalModePair = true →
    (∀ bytes, fetch s.chooseSide = .request bytes → decodeRequest bytes = .ok i →
      step s = exec i s.chooseSide.popInbox) ∧
    (∀ bytes, fetch s.chooseSide = .response bytes → decodeResponse bytes = .ok i →
      step s = exec i s.chooseSide) ∧
    (∀ code, fetch s.chooseSide = .uop code → decodeUop code = some i →
      step s = exec i s.chooseSide) ∧
    (∀ isSB v, fetch s.chooseSide = .cpuWrite isSB v →
      ∃ t, step s = .next t ∧
        localOnly s.chooseSide t { s.chooseSide.me with host := { s.chooseSide.me.host with
          inbox := s.chooseSide.me.host.inbox.tail
          sb := if isSB then v else s.chooseSide.me.host.sb
          sc := if isSB then s.chooseSide.me.host.sc else v } }) ∧
    (fetch s.chooseSide = .idle → step s = .next s.chooseSide)

/-- The acting side's next action (R3, R33, R81): it takes the response if one waits; else, without a command, the head of
the inbox is handed over, TICK e as UPDATE e, SB, SC; else its sequencer's µ-op runs. The inbox and the port are the
model's (log 10, 15). -/
def Obligations.FetchOrder : Prop :=
  ∀ s : State,
    (∀ bytes, s.me.host.response = some bytes → fetch s = .response bytes) ∧
    (s.me.host.response = none → s.me.cmd = .none →
      (s.me.host.inbox = [] → fetch s = .idle) ∧
      (∀ bytes rest, s.me.host.inbox = .frame bytes :: rest → fetch s = .request bytes) ∧
      (∀ e rest, s.me.host.inbox = .tick e :: rest →
        fetch s = .request [0x10, e.extractLsb' 0 8, e.extractLsb' 8 8, e.extractLsb' 16 8, e.extractLsb' 24 8,
          s.me.host.sb, s.me.host.sc]) ∧
      (∀ v rest, s.me.host.inbox = .writeSB v :: rest → fetch s = .cpuWrite true v) ∧
      (∀ v rest, s.me.host.inbox = .writeSC v :: rest → fetch s = .cpuWrite false v)) ∧
    (s.me.host.response = none → s.me.cmd ≠ .none → ∀ i, s.selected = some i →
      ∃ code, fetch s = .uop code ∧ decodeUop code = some i)

/-- R79, R117: an illegal frame is held as ILLEGAL, and nothing else changes but the host's inbox (the model's, log 10).
That a request of zero bytes is one of these frames is the model's choice (log 28). -/
def Obligations.IllegalFrameIsHeldForIllegalExec : Prop :=
  ∀ (s : State) (bytes : List Byte) (err : DecodeError), s.cfg.legalModePair = true →
    fetch s.chooseSide = .request bytes → decodeRequest bytes = .error err →
    ∃ t, step s = .next t ∧
      localOnly s.chooseSide t { s.chooseSide.me with cmd := .illegal, host :=
        { s.chooseSide.me.host with inbox := s.chooseSide.me.host.inbox.tail } }

/-- R11: an instance whose modes form no pair (SHM, SHM), (PIPE_PARENT, PIPE_CHILD) or (UNLINKED, any), in either order
(the order is the model's reading, log 5), is refused, and no other is refused for its modes. -/
def Obligations.StepRefusesExactlyOtherModePairs : Prop :=
  ∀ s : State,
    step s = .refused .illegalModePair ↔
      ¬ ((s.cfg.modeA = .shm ∧ s.cfg.modeB = .shm) ∨
         (s.cfg.modeA = .pipeParent ∧ s.cfg.modeB = .pipeChild) ∨
         (s.cfg.modeA = .pipeChild ∧ s.cfg.modeB = .pipeParent) ∨
         s.cfg.modeA = .unlinked ∨ s.cfg.modeB = .unlinked)

/-- R77, R78: in a state whose L.SEQ agrees with its command (R31, R32: the joining states exist only while
L.CMD = ATTACH, and the lock is held only inside an attached side's UPDATE), an enabled µ-op is the one the sequencer
selects. -/
def Obligations.EnabledUopIsSelected : Prop :=
  ∀ (s : State) (i : Instr), i.kind = .uop → enabled s i = true →
    (s.me.seq = .created ∨ s.me.seq = .initialized ∨ s.me.seq = .joining ∨ s.me.seq = .publishedSeen →
      s.me.cmd = .attach) →
    (s.lockOwner = some s.turn → s.me.seq = .attached) →
    s.selected = some i

/-- R14: while a µ-op is not enabled the side waits, and nothing changes (that the step happens and leaves the state as it
was is the model's choice, log 12, 13). C_SEND_ATTACH is apart: its condition is part of its draw (R129, log 19). -/
def Obligations.NotEnabledWaits : Prop :=
  ∀ (s : State) (i : Instr), enabled s i = false → i ≠ .cSendAttach → exec i s = .next s

/-! The frames -/

/-- R32, R67 to R70: a request handed over while L.CMD = NONE becomes the side's command, and nothing else changes. -/
def Obligations.RequestsBecomeTheCommand : Prop :=
  ∀ s : State, s.me.cmd = .none → s.me.host.response = none →
    (∃ t, exec .attach s = .next t ∧ localOnly s t { s.me with cmd := .attach }) ∧
    (∃ t, exec .detach s = .next t ∧ localOnly s t { s.me with cmd := .detach }) ∧
    (∃ t, exec .query s = .next t ∧ localOnly s t { s.me with cmd := .query }) ∧
    (∀ e d c, ∃ t, exec (.update e d c) s = .next t ∧ localOnly s t { s.me with cmd := .update e d c })

/-- R71 to R73, R75, R16: the host receives these responses, and nothing else changes (reception as a step is the model's
choice, log 14). -/
def Obligations.ResponsesReachTheHost : Prop :=
  ∀ s : State,
    let got := fun bytes : List Byte =>
      { s.me with host := { s.me.host with response := none, received := s.me.host.received ++ [bytes] } }
    (∀ st slot, ∃ t, exec (.attachRsp st slot) s = .next t ∧ localOnly s t (got [0x81, st, slot])) ∧
    (∀ st, ∃ t, exec (.detachRsp st) s = .next t ∧ localOnly s t (got [0x84, st])) ∧
    (∀ disc, ∃ t, exec (.queryRsp disc) s = .next t ∧ localOnly s t (got [0x85, if disc then 0x01 else 0x00])) ∧
    (∀ st, ∃ t, exec (.errorRsp st) s = .next t ∧ localOnly s t (got [0xFF, st]))

/-- R74, R81, R118 items 2 to 4: an UPDATE_RSP is received; nd goes to SB and nc to SC; irq requests the Serial interrupt
once; and the host's bus answers 0xFF for SB exactly while disc is 1. That the host keeps its contract at once is the
model's choice (log 14). -/
def Obligations.UpdateResponseIsWrittenBack : Prop :=
  ∀ (s : State) (nd nc : Byte) (irq disc : Bool) (st : Byte),
    ∃ t, exec (.updateRsp nd nc irq disc st) s = .next t ∧
      localOnly s t { s.me with host := { s.me.host with
        response := none
        received := s.me.host.received ++ [ [0x90, nd, nc,
          (if irq then 0x01 else 0x00) ||| (if disc then 0x02 else 0x00), st] ]
        sb := nd
        sc := nc
        lastDisc := disc
        serialRequests := s.me.host.serialRequests + (if irq then 1 else 0) } } ∧
      t.me.host.busReadSB = if disc then 0xFF else nd

/-! The shared transport -/

/-- R82: CREATE_OR_OPEN answers TRANSPORT_UNAVAILABLE when its draw fails, opens an existing store, and else creates one
with all 16 bytes 0x00. The draw's outcome is free (log 2). -/
def Obligations.CreateOrOpenResult : Prop :=
  ∀ s : State, s.mode = .shm → s.me.cmd = .attach → s.me.seq = .detached →
    ∃ t, exec .createOrOpen s = .next t ∧
      (s.drawn = true → localOnly s.afterDraw t (s.me.ended [0x81, 0x01, 0xFF])) ∧
      (s.drawn = false → s.storeExists = true →
        localOnly s.afterDraw t
          { s.me with creator := false, gen := s.storeGen, polls := 0, seq := .joining }) ∧
      (s.drawn = false → s.storeExists = false →
        sameElsewhere { s.afterDraw with storeExists := true, storeGen := s.storeGen + 1, lockOwner := none } t ∧
        t.me = { s.me with creator := true, gen := s.storeGen + 1, seq := .created } ∧
        ∀ a, a ≤ 0x0F → t.readByte a = some 0x00)

/-- R83: INIT_REGION zeroes 0x04 to 0x0F, sets ALIVE[0] and gives the creator slot 0. -/
def Obligations.InitRegionResult : Prop :=
  ∀ s : State, s.mode = .shm → s.me.seq = .created → s.storeExists = true → s.store.wf = true →
    ∃ t, exec .initRegion s = .next t ∧ sameElsewhere s t ∧
      t.me = { s.me with slot := 0x00, seq := .initialized } ∧
      t.readByte 0x04 = some 0x01 ∧
      (∀ a, 0x05 ≤ a → a ≤ 0x0F → t.readByte a = some 0x00) ∧
      (∀ a, a < 0x04 → t.readByte a = s.readByte a)

/-- R84: PUBLISH sets INIT, attaches the creator and answers OK with slot 0. -/
def Obligations.PublishResult : Prop :=
  ∀ s : State, s.mode = .shm → s.me.seq = .initialized → s.storeExists = true → s.store.wf = true →
    ∃ t, exec .publish s = .next t ∧ sameElsewhere s t ∧
      t.me = ({ s.me with seq := .attached }).ended [0x81, 0x00, 0x00] ∧
      t.readByte 0x00 = some 0x01 ∧
      (∀ a, a ≠ 0x00 → t.readByte a = s.readByte a)

/-- R85: one poll of INIT: the store is gone, INIT is seen, or the attempt is counted and the last one fails. -/
def Obligations.PollInitResult : Prop :=
  ∀ s : State, s.mode = .shm → s.me.seq = .joining →
    ∃ t, exec .pollInit s = .next t ∧
      (s.storeExists = false ∨ s.storeGen ≠ s.me.gen →
        localOnly s t (({ s.me with seq := .detached }).ended [0x81, 0x01, 0xFF])) ∧
      (s.storeExists = true → s.storeGen = s.me.gen →
        (s.readByte 0x00 = some 0x01 → localOnly s t { s.me with seq := .publishedSeen }) ∧
        (s.readByte 0x00 ≠ some 0x01 → s.me.polls + 1 ≠ s.cfg.initPollLimit →
          localOnly s t { s.me with polls := s.me.polls + 1 }) ∧
        (s.readByte 0x00 ≠ some 0x01 → s.me.polls + 1 = s.cfg.initPollLimit →
          localOnly s t (({ s.me with polls := s.me.polls + 1, seq := .detached }).ended [0x81, 0x01, 0xFF])))

/-- R86: CLAIM_SLOT claims the lowest slot whose ALIVE is 0x00, and fails when there is none or the store is gone. -/
def Obligations.ClaimSlotResult : Prop :=
  ∀ s : State, s.mode = .shm → s.me.seq = .publishedSeen → s.store.wf = true →
    (s.lockOwner = none ∨ s.storeExists = false ∨ s.storeGen ≠ s.me.gen) →
    ∃ t, exec .claimSlot s = .next t ∧
      ((s.storeExists = false ∨ s.storeGen ≠ s.me.gen ∨
          (s.readByte 0x04 ≠ some 0x00 ∧ s.readByte 0x08 ≠ some 0x00)) →
        localOnly s t (({ s.me with seq := .detached }).ended [0x81, 0x01, 0xFF])) ∧
      (∀ i : Slot, s.storeExists = true → s.storeGen = s.me.gen → s.readByte i.base = some 0x00 →
        (i = .one → s.readByte 0x04 ≠ some 0x00) →
        sameElsewhere s t ∧
        t.me = ({ s.me with slot := i.code, seq := .attached }).ended [0x81, 0x00, i.code] ∧
        slotReads t.store i 0x01 0x00 0x00 0x00 ∧
        ∀ a, (a < i.base ∨ i.base + 4 ≤ a) → t.readByte a = s.readByte a)

/-- R88: DETACH_EXEC clears its slot's ALIVE and PHASE, and COUNTER if it was TRANSFERRING; it destroys the store exactly
when the peer's ALIVE is 0x00; it answers OK. -/
def Obligations.DetachExecResult : Prop :=
  ∀ (s : State) (i : Slot), s.mode = .shm → s.me.cmd = .detach → s.me.seq = .attached → s.lockOwner = none →
    s.storeExists = true → s.store.wf = true → Slot.ofByte s.me.slot = some i →
    ∃ t, exec .detachExec s = .next t ∧
      t.me = ({ s.me with seq := .detached, creator := false, disc := true }).ended [0x84, 0x00] ∧
      (s.store.alive i.peer = 0x00 → sameElsewhere { s with storeExists := false } t) ∧
      (s.store.alive i.peer ≠ 0x00 →
        sameElsewhere s t ∧
        t.readByte (i.base + 0) = some 0x00 ∧ t.readByte (i.base + 3) = some 0x00 ∧
        (s.store.phase i = 0x03 → t.readByte 0x0C = some 0x00 ∧ t.readByte 0x0D = some 0x00) ∧
        ∀ a, a ≠ i.base + 0 → a ≠ i.base + 3 → (s.store.phase i = 0x03 → a ≠ 0x0C ∧ a ≠ 0x0D) →
          t.readByte a = s.readByte a)

/-! STEP -/

/-- R92, R145: STEP is a no-op with MALFORMED_STATE and a log event exactly when its own ALIVE is not 0x01, the peer's
ALIVE is neither 0x00 nor 0x01, its own PHASE is above 0x04, or a live peer's PHASE is. -/
def Obligations.MalformedStoreIsANoOp : Prop :=
  ∀ (T : Half) (m : Memory) (i : Slot) (e : Word) (d c : Byte),
    let bad := m.alive i ≠ 0x01 ∨ (m.alive i.peer ≠ 0x00 ∧ m.alive i.peer ≠ 0x01) ∨ 0x04 < (m.phase i).toNat ∨
      (m.alive i.peer = 0x01 ∧ 0x04 < (m.phase i.peer).toNat)
    (bad → protocolStep T m i e d c = ⟨m, d, c, false, 0x04, none, true⟩) ∧
    (¬ bad → (protocolStep T m i e d c).log = false ∧ (protocolStep T m i e d c).status ≠ 0x04)

/-- R93: a COMPLETE slot is delivered: PHASE becomes READY, its DATA and CONTROL go to the host with irq 1, d and c are
ignored, and no other byte changes. -/
def Obligations.DeliveryResult : Prop :=
  ∀ (T : Half) (m : Memory) (i : Slot) (e : Word) (d c : Byte), m.wf = true → malformed m i = false →
    m.phase i = 0x04 →
    let r := protocolStep T m i e d c
    r.nd = m.read (i.base + 1) ∧ r.nc = m.read (i.base + 2) ∧ r.irq = true ∧ r.status = 0x00 ∧
    r.discOut = some false ∧ r.log = false ∧ r.store.read (i.base + 3) = 0x01 ∧
    ∀ a, a ≠ i.base + 3 → r.store.read a = m.read a

/-- R94: with the peer's ALIVE 0x00 and the own slot not COMPLETE, PHASE becomes DISCONNECTED, COUNTER 0 if it was
TRANSFERRING, and the host's own values come back with PEER_DISCONNECTED; nothing is latched. -/
def Obligations.PeerAbsentResult : Prop :=
  ∀ (T : Half) (m : Memory) (i : Slot) (e : Word) (d c : Byte), m.wf = true → malformed m i = false →
    m.phase i ≠ 0x04 → m.alive i.peer = 0x00 →
    let r := protocolStep T m i e d c
    r.nd = d ∧ r.nc = c ∧ r.irq = false ∧ r.status = 0x03 ∧ r.discOut = some true ∧ r.log = false ∧
    r.store.read (i.base + 3) = 0x00 ∧
    (m.phase i = 0x03 → r.store.counter = 0) ∧
    ∀ a, a ≠ i.base + 3 → (m.phase i = 0x03 → a ≠ 0x0C ∧ a ≠ 0x0D) → r.store.read a = m.read a

/-- R95, R96: W4 and W5a fall through to W6 in the same step. With a live peer, a DISCONNECTED slot's STEP is the STEP of
the same slot READY, and a TRANSFERRING slot whose peer is not TRANSFERRING steps as the same slot READY with COUNTER 0. -/
def Obligations.RecoveryAndAbandonmentFallThrough : Prop :=
  ∀ (T : Half) (m : Memory) (i : Slot) (e : Word) (d c : Byte), m.wf = true → malformed m i = false →
    m.alive i.peer = 0x01 →
    (m.phase i = 0x00 → protocolStep T m i e d c = protocolStep T (m.setPhase i 0x01) i e d c) ∧
    (m.phase i = 0x03 → m.phase i.peer ≠ 0x03 →
      protocolStep T m i e d c = protocolStep T ((m.setPhase i 0x01).setCounter 0) i e d c)

/-- R97, R98, R15: with both slots TRANSFERRING, a master adds its e to COUNTER, saturating at 0xFFFF, and a slave adds
nothing; below the threshold nothing else changes; at or above it DATA is swapped, bit 7 of both CONTROLs is cleared, both
slots are COMPLETE and COUNTER is 0. The host's own values come back with irq 0. -/
def Obligations.TransferCountsAndExchanges : Prop :=
  ∀ (T : Half) (m : Memory) (i : Slot) (e : Word) (d c : Byte), m.wf = true → malformed m i = false →
    m.alive i.peer = 0x01 → m.phase i = 0x03 → m.phase i.peer = 0x03 →
    let r := protocolStep T m i e d c
    let n := if (m.control i).getLsbD 0 then min (m.counter.toNat + e.toNat) 0xFFFF else m.counter.toNat
    (r.nd = d ∧ r.nc = c ∧ r.irq = false ∧ r.status = 0x00 ∧ r.discOut = some false ∧ r.log = false) ∧
    (n < T.toNat →
      r.store.counter.toNat = n ∧ ∀ a, a ≠ 0x0C → a ≠ 0x0D → r.store.read a = m.read a) ∧
    (T.toNat ≤ n →
      slotReads r.store .zero (m.read 0x04) (m.read 0x09) (m.read 0x06 &&& 0x7F) 0x04 ∧
      slotReads r.store .one (m.read 0x08) (m.read 0x05) (m.read 0x0A &&& 0x7F) 0x04 ∧
      r.store.counter = 0 ∧
      ∀ a, (a < 0x04 ∨ 0x0E ≤ a) → r.store.read a = m.read a)

/-- R99, R100, R101: a READY or PENDING slot with a live peer latches d and c; it is PENDING exactly when c has bits 7 and
0 set; and a transfer starts exactly when both controls request, the peer is READY or PENDING and one of the two is
PENDING: then both are TRANSFERRING and COUNTER is 0. The host's own values come back with irq 0. -/
def Obligations.LatchAndStart : Prop :=
  ∀ (T : Half) (m : Memory) (i : Slot) (e : Word) (d c : Byte), m.wf = true → malformed m i = false →
    m.alive i.peer = 0x01 → (m.phase i = 0x01 ∨ m.phase i = 0x02) →
    let r := protocolStep T m i e d c
    let master := c.getLsbD 7 = true ∧ c.getLsbD 0 = true
    let start := c.getLsbD 7 = true ∧ (m.control i.peer).getLsbD 7 = true ∧
      (m.phase i.peer = 0x01 ∨ m.phase i.peer = 0x02) ∧ (master ∨ m.phase i.peer = 0x02)
    (r.nd = d ∧ r.nc = c ∧ r.irq = false ∧ r.status = 0x00 ∧ r.discOut = some false ∧ r.log = false) ∧
    (start →
      slotReads r.store i (m.alive i) d c 0x03 ∧ r.store.phase i.peer = 0x03 ∧ r.store.counter = 0 ∧
      ∀ a, ¬ (i.base ≤ a ∧ a < i.base + 4) → a ≠ i.peer.base + 3 → a ≠ 0x0C → a ≠ 0x0D →
        r.store.read a = m.read a) ∧
    (¬ start →
      (master → r.store.phase i = 0x02) ∧ (¬ master → r.store.phase i = 0x01) ∧
      r.store.alive i = m.alive i ∧ r.store.data i = d ∧ r.store.control i = c ∧
      ∀ a, ¬ (i.base ≤ a ∧ a < i.base + 4) → r.store.read a = m.read a)

/-- R102: no transfer starts unless both latched controls have bit 7 set: where a STEP leaves its slot TRANSFERRING that
was not TRANSFERRING before it, both have. -/
def Obligations.NoStartWithoutBothRequests : Prop :=
  ∀ (T : Half) (m : Memory) (i : Slot) (e : Word) (d c : Byte), m.wf = true → malformed m i = false →
    m.phase i ≠ 0x03 → (protocolStep T m i e d c).store.phase i = 0x03 →
    ((protocolStep T m i e d c).store.control .zero).getLsbD 7 = true ∧
    ((protocolStep T m i e d c).store.control .one).getLsbD 7 = true

/-- R107: no STEP of the other side writes a COMPLETE slot, and its own STEP delivers it. -/
def Obligations.CompleteSlotWaitsForItsOwnSide : Prop :=
  ∀ (T : Half) (m : Memory) (i : Slot) (e : Word) (d c : Byte), m.wf = true → m.phase i = 0x04 →
    (∀ a, i.base ≤ a → a < i.base + 4 → (protocolStep T m i.peer e d c).store.read a = m.read a) ∧
    (malformed m i = false → (protocolStep T m i e d c).irq = true)

/-- R109: STEP is symmetric in the slots: on the store with its slots swapped, the other slot's STEP gives the same
outputs and the swapped store. -/
def Obligations.StepIsSymmetricInTheSlots : Prop :=
  ∀ (T : Half) (m n : Memory) (i : Slot) (e : Word) (d c : Byte), m.wf = true → n.wf = true → swappedStores m n →
    let r := protocolStep T m i e d c
    let q := protocolStep T n i.peer e d c
    swappedStores r.store q.store ∧ q.nd = r.nd ∧ q.nc = r.nc ∧ q.irq = r.irq ∧ q.status = r.status ∧
      q.discOut = r.discOut ∧ q.log = r.log

/-- R113, R149: irq is 1 exactly in a delivery step, and every other STEP returns the host's own values. -/
def Obligations.InterruptExactlyAtDelivery : Prop :=
  ∀ (T : Half) (m : Memory) (i : Slot) (e : Word) (d c : Byte),
    let r := protocolStep T m i e d c
    (r.irq = true ↔ (malformed m i = false ∧ m.phase i = 0x04)) ∧
    (r.irq = false → r.nd = d ∧ r.nc = c)

/-- R91, R89: STEP writes only the protected region, and never ALIVE. -/
def Obligations.StepNeverWritesOutsideOrAlive : Prop :=
  ∀ (T : Half) (m : Memory) (i : Slot) (e : Word) (d c : Byte), m.wf = true →
    (protocolStep T m i e d c).store.wf = true ∧
    ∀ a, (a ≤ 0x04 ∨ a = 0x08 ∨ 0x0E ≤ a) → (protocolStep T m i e d c).store.read a = m.read a

/-! The port adapter -/

/-- R110, R56: LOCK_ACQUIRE takes the free lock when the try is granted; else the UPDATE ends with LOCK_TIMEOUT, the host's
own values and the current L.DISC, and nothing else changes. A try draws exactly when LOCK_MAY_FAIL_SPURIOUSLY, while the
lock is held too (the model's reading of R110, log 20). -/
def Obligations.LockAcquireResult : Prop :=
  ∀ (s : State) (e : Word) (d c : Byte), s.mode = .shm → s.me.cmd = .update e d c → s.me.seq = .attached →
    s.lockOwner ≠ some s.turn →
    let u := if s.cfg.lockMayFailSpuriously then s.afterDraw else s
    let granted := s.cfg.lockMayFailSpuriously = false ∨ s.drawn = true
    ∃ t, exec .lockAcquire s = .next t ∧
      (s.lockOwner = none → granted → t = { u with lockOwner := some s.turn }) ∧
      (¬ (s.lockOwner = none ∧ granted) →
        localOnly u t (s.me.ended [0x90, d, c, if s.me.disc then 0x02 else 0x00, 0x02]))

/-- R111, R112: COMMIT runs STEP for its slot, releases the lock, sets L.DISC unless STEP keeps it, counts a logged event
and answers with STEP's values. -/
def Obligations.CommitResult : Prop :=
  ∀ (s : State) (i : Slot) (e : Word) (d c : Byte), s.mode = .shm → s.me.cmd = .update e d c →
    s.lockOwner = some s.turn → s.storeExists = true → Slot.ofByte s.me.slot = some i →
    let r := protocolStep s.cfg.transferThreshold s.store i e d c
    let disc := match r.discOut with | some b => b | none => s.me.disc
    ∃ t, exec .commit s = .next t ∧ sameElsewhere { s with lockOwner := none } t ∧ t.store = r.store ∧
      t.me = ({ s.me with
        disc := disc
        logCount := if r.log then BitVec.ofNat 32 (min (s.me.logCount.toNat + 1) 0xFFFFFFFF)
          else s.me.logCount }).ended
        [0x90, r.nd, r.nc, (if r.irq then 0x01 else 0x00) ||| (if disc then 0x02 else 0x00), r.status]

/-- R114: an UNLINKED side returns UPDATE's inputs with disc 1 and OK, answers ATTACH with OK and no slot and DETACH with
OK, and nothing else changes. -/
def Obligations.UnlinkedExecResult : Prop :=
  ∀ s : State, s.mode = .unlinked →
    (∀ e d c, s.me.cmd = .update e d c →
      ∃ t, exec .unlinkedExec s = .next t ∧ localOnly s t (s.me.ended [0x90, d, c, 0x02, 0x00])) ∧
    (s.me.cmd = .attach →
      ∃ t, exec .unlinkedExec s = .next t ∧ localOnly s t (s.me.ended [0x81, 0x00, 0xFF])) ∧
    (s.me.cmd = .detach →
      ∃ t, exec .unlinkedExec s = .next t ∧ localOnly s t (s.me.ended [0x84, 0x00]))

/-- R115: QUERY_EXEC answers L.DISC in every mode, and nothing else changes. -/
def Obligations.QueryExecResult : Prop :=
  ∀ s : State, s.me.cmd = .query →
    ∃ t, exec .queryExec s = .next t ∧ localOnly s t (s.me.ended [0x85, if s.me.disc then 0x01 else 0x00])

/-- R116: TRIVIAL_EXEC's answers; CLOSED exists in PIPE modes only. Nothing else changes. -/
def Obligations.TrivialExecResult : Prop :=
  ∀ s : State, s.mode ≠ .unlinked →
    let idleSeq := s.me.seq = .detached ∨ (s.me.seq = .closed ∧ s.mode ≠ .shm)
    (∀ e d c, s.me.cmd = .update e d c → idleSeq →
      ∃ t, exec .trivialExec s = .next t ∧
        localOnly s t (s.me.ended [0x90, d, c, if s.me.disc then 0x02 else 0x00, 0x06])) ∧
    (s.me.cmd = .detach → idleSeq →
      ∃ t, exec .trivialExec s = .next t ∧ localOnly s t (s.me.ended [0x84, 0x00])) ∧
    (s.me.cmd = .attach → s.me.seq = .attached →
      ∃ t, exec .trivialExec s = .next t ∧ localOnly s t (s.me.ended [0x81, 0x00, s.me.slot])) ∧
    (s.me.cmd = .attach → s.me.seq = .closed → s.mode ≠ .shm →
      ∃ t, exec .trivialExec s = .next t ∧ localOnly s t (s.me.ended [0x81, 0x01, 0xFF]))

/-- R117, R39, R15: ILLEGAL_EXEC counts the event, saturating, answers ERROR_RSP, and nothing else changes. -/
def Obligations.IllegalExecResult : Prop :=
  ∀ s : State, s.me.cmd = .illegal →
    ∃ t, exec .illegalExec s = .next t ∧
      localOnly s t (({ s.me with
        logCount := BitVec.ofNat 32 (min (s.me.logCount.toNat + 1) 0xFFFFFFFF) }).ended [0xFF, 0x07])

/-- R20, R34, R44: the µ-ops that access S stop by name while it does not exist, and DETACH_EXEC and COMMIT while L.SLOT is
neither 0 nor 1 (the model's stop, log 21; no run meets it, by SafeStatesStepToSafeStates). -/
def Obligations.StoreUopsStopWithoutAStoreOrSlot : Prop :=
  ∀ s : State,
    (s.storeExists = false →
      (enabled s .initRegion = true → exec .initRegion s = .fault .noStore) ∧
      (enabled s .publish = true → exec .publish s = .fault .noStore) ∧
      (enabled s .detachExec = true → exec .detachExec s = .fault .noStore) ∧
      (enabled s .commit = true → exec .commit s = .fault .noStore) ∧
      (enabled s .pUpdate = true → exec .pUpdate s = .fault .noStore)) ∧
    (s.storeExists = true → s.me.slot ≠ 0x00 → s.me.slot ≠ 0x01 →
      (enabled s .detachExec = true → exec .detachExec s = .fault .noSlot) ∧
      (enabled s .commit = true → exec .commit s = .fault .noSlot))

/-! The piped transport -/

/-- R125: P_OPEN closes P2C and the side when its draw fails, and else makes the parent's private store with INIT and
ALIVE[0] 0x01 and every other byte 0x00. The draw's outcome is free (log 2). -/
def Obligations.POpenResult : Prop :=
  ∀ s : State, s.mode = .pipeParent → s.me.cmd = .attach → s.me.seq = .detached →
    ∃ t, exec .pOpen s = .next t ∧
      (s.drawn = true →
        localOnly { s.afterDraw with p2c := ⟨s.p2c.bytes, true⟩ } t
          (({ s.me with seq := .closed }).ended [0x81, 0x01, 0xFF])) ∧
      (s.drawn = false →
        sameElsewhere { s.afterDraw with storeExists := true, storeGen := s.storeGen + 1 } t ∧
        t.me = ({ s.me with slot := 0x00, creator := true, gen := s.storeGen + 1, seq := .attached }).ended
          [0x81, 0x00, 0x00] ∧
        t.readByte 0x00 = some 0x01 ∧ t.readByte 0x04 = some 0x01 ∧
        ∀ a, a ≤ 0x0F → a ≠ 0x00 → a ≠ 0x04 → t.readByte a = some 0x00)

/-- R126: SERVICE with nothing in C2P does nothing but at the end of the child's stream, where it clears a live slot 1 as
a DETACH does; and a frame whose answer has no room in P2C stays in C2P, and SERVICE does nothing. -/
def Obligations.ServiceWithoutAFrameOrRoom : Prop :=
  (∀ s : State, s.c2p.bytes = [] → s.store.wf = true →
    (¬ (s.c2p.closed = true ∧ s.store.alive .one = 0x01) → service s = s) ∧
    (s.c2p.closed = true → s.store.alive .one = 0x01 →
      sameElsewhere s (service s) ∧ (service s).me = s.me ∧
      (service s).store.alive .one = 0x00 ∧ (service s).store.phase .one = 0x00 ∧
      (s.store.phase .one = 0x03 → (service s).store.counter = 0) ∧
      ∀ a, a ≠ 0x08 → a ≠ 0x0B → (s.store.phase .one = 0x03 → a ≠ 0x0C ∧ a ≠ 0x0D) →
        (service s).store.read a = s.store.read a)) ∧
  (∀ (s : State) (op : Byte) (rest : List Byte), s.c2p.bytes = op :: rest →
    let room := s.cfg.fifoDepth - s.p2c.bytes.length
    (op = 0x01 → room < 3 → service s = s) ∧
    (op = 0x10 → 6 ≤ rest.length → room < 5 → service s = s) ∧
    (op ≠ 0x01 → op ≠ 0x04 → op ≠ 0x10 → room < 2 → service s = s))

/-- R126: SERVICE of the child's ATTACH, DETACH and junk frames, popped whole (R123) when P2C has room for the answer. A push
that a FIFO does not take writes nothing (log 18). -/
def Obligations.ServiceAttachDetachJunk : Prop :=
  ∀ (s : State) (op : Byte) (rest : List Byte), s.c2p.bytes = op :: rest → s.store.wf = true →
    let room := s.cfg.fifoDepth - s.p2c.bytes.length
    let popped := { s with c2p := ⟨rest, s.c2p.closed⟩ }
    let pushed := fun f : List Byte => { popped with p2c := s.p2c.push s.cfg.fifoDepth f }
    (op = 0x01 → 3 ≤ room →
      (s.store.alive .one ≠ 0x00 → service s = pushed [0x81, 0x01, 0xFF]) ∧
      (s.store.alive .one = 0x00 →
        sameElsewhere (pushed [0x81, 0x00, 0x01]) (service s) ∧ (service s).me = s.me ∧
        slotReads (service s).store .one 0x01 0x00 0x00 0x00 ∧
        ∀ a, (a < 0x08 ∨ 0x0C ≤ a) → (service s).store.read a = s.store.read a)) ∧
    (op = 0x04 →
      sameElsewhere popped (service s) ∧ (service s).me = s.me ∧
      (service s).store.alive .one = 0x00 ∧ (service s).store.phase .one = 0x00 ∧
      (s.store.phase .one = 0x03 → (service s).store.counter = 0) ∧
      ∀ a, a ≠ 0x08 → a ≠ 0x0B → (s.store.phase .one = 0x03 → a ≠ 0x0C ∧ a ≠ 0x0D) →
        (service s).store.read a = s.store.read a) ∧
    (op ≠ 0x01 → op ≠ 0x04 → op ≠ 0x10 → 2 ≤ room →
      localOnly (pushed [0xFF, 0x07]) (service s)
        { s.me with logCount := BitVec.ofNat 32 (min (s.me.logCount.toNat + 1) 0xFFFFFFFF) })

/-- R126: SERVICE of the child's UPDATE: STEP for slot 1 while ALIVE[1] is 0x01, and NOT_ATTACHED otherwise. A push
that a FIFO does not take writes nothing (log 18). -/
def Obligations.ServiceUpdateRunsSlotOne : Prop :=
  ∀ (s : State) (e : Word) (d c : Byte) (rest : List Byte),
    s.c2p.bytes = [0x10, e.extractLsb' 0 8, e.extractLsb' 8 8, e.extractLsb' 16 8, e.extractLsb' 24 8, d, c] ++ rest →
    5 ≤ s.cfg.fifoDepth - s.p2c.bytes.length →
    let r := protocolStep s.cfg.transferThreshold s.store .one e d c
    let pushed := fun f : List Byte =>
      { s with c2p := ⟨rest, s.c2p.closed⟩, p2c := s.p2c.push s.cfg.fifoDepth f }
    (s.store.alive .one ≠ 0x01 → service s = pushed [0x90, d, c, 0x02, 0x06]) ∧
    (s.store.alive .one = 0x01 →
      sameElsewhere (pushed [0x90, r.nd, r.nc,
        (if r.irq then 0x01 else 0x00) ||| (if r.discOut = some true then 0x02 else 0x00), r.status]) (service s) ∧
      (service s).store = r.store ∧
      (service s).me = { s.me with
        logCount := if r.log then BitVec.ofNat 32 (min (s.me.logCount.toNat + 1) 0xFFFFFFFF)
          else s.me.logCount })

/-- R127: P_UPDATE is SERVICE and then the parent's own STEP for slot 0. -/
def Obligations.PUpdateResult : Prop :=
  ∀ (s : State) (e : Word) (d c : Byte), s.mode = .pipeParent → s.me.cmd = .update e d c → s.me.seq = .attached →
    s.storeExists = true →
    let u := service s
    let r := protocolStep s.cfg.transferThreshold u.store .zero e d c
    let disc := match r.discOut with | some b => b | none => s.me.disc
    ∃ t, exec .pUpdate s = .next t ∧ sameElsewhere u t ∧ t.store = r.store ∧
      t.me = ({ s.me with
        disc := disc
        logCount := if r.log then BitVec.ofNat 32 (min (u.me.logCount.toNat + 1) 0xFFFFFFFF)
          else u.me.logCount }).ended
        [0x90, r.nd, r.nc, (if r.irq then 0x01 else 0x00) ||| (if disc then 0x02 else 0x00), r.status]

/-- R128: P_CLOSE closes P2C, releases the store and answers OK. -/
def Obligations.PCloseResult : Prop :=
  ∀ s : State, s.mode = .pipeParent → s.me.cmd = .detach → s.me.seq = .attached →
    ∃ t, exec .pClose s = .next t ∧
      sameElsewhere { s with storeExists := false, p2c := ⟨s.p2c.bytes, true⟩ } t ∧
      t.me = ({ s.me with seq := .closed, creator := false, disc := true }).ended [0x84, 0x00]

/-- R129: C_SEND_ATTACH closes C2P and the side when its draw fails, and else pushes `01` and starts to poll; without room
and without a failing draw it waits, and the try has used its draw up (the model's choice, log 19). A push
that a FIFO does not take writes nothing (log 18). -/
def Obligations.CSendAttachResult : Prop :=
  ∀ s : State, s.mode = .pipeChild → s.me.cmd = .attach → s.me.seq = .detached →
    ∃ t, exec .cSendAttach s = .next t ∧
      (s.drawn = true →
        localOnly { s.afterDraw with c2p := ⟨s.c2p.bytes, true⟩ } t
          (({ s.me with seq := .closed }).ended [0x81, 0x01, 0xFF])) ∧
      (s.drawn = false → s.c2p.bytes.length < s.cfg.fifoDepth →
        localOnly { s.afterDraw with c2p := s.c2p.push s.cfg.fifoDepth [0x01] } t
          { s.me with polls := 0, seq := .joining }) ∧
      (s.drawn = false → s.cfg.fifoDepth ≤ s.c2p.bytes.length → t = s.afterDraw)

/-- R130: one poll of the child. An ATTACH_RSP attaches it or closes it with its status; EOF closes it with
TRANSPORT_UNAVAILABLE; any other frame is discarded and counted; and a poll without an ATTACH_RSP counts, the last one
closing it. -/
def Obligations.CRecvAttachResult : Prop :=
  ∀ s : State, s.mode = .pipeChild → s.me.cmd = .attach → s.me.seq = .joining →
    let closedC2P := (⟨s.c2p.bytes, true⟩ : Fifo)
    ∃ t, exec .cRecvAttach s = .next t ∧
      (∀ slot rest, s.p2c.bytes = [0x81, 0x00, slot] ++ rest →
        localOnly { s with p2c := ⟨rest, s.p2c.closed⟩ } t
          (({ s.me with slot := slot, seq := .attached }).ended [0x81, 0x00, slot])) ∧
      (∀ st slot rest, st ≠ 0x00 → s.p2c.bytes = [0x81, st, slot] ++ rest →
        localOnly { s with p2c := ⟨rest, s.p2c.closed⟩, c2p := closedC2P } t
          (({ s.me with seq := .closed }).ended [0x81, st, 0xFF])) ∧
      (s.p2c.bytes = [] → s.p2c.closed = true →
        localOnly { s with c2p := closedC2P } t (({ s.me with seq := .closed }).ended [0x81, 0x01, 0xFF])) ∧
      (s.p2c.bytes = [] → s.p2c.closed = false → s.me.polls + 1 ≠ s.cfg.initPollLimit →
        localOnly s t { s.me with polls := s.me.polls + 1 }) ∧
      (s.p2c.bytes = [] → s.p2c.closed = false → s.me.polls + 1 = s.cfg.initPollLimit →
        localOnly { s with c2p := closedC2P } t
          (({ s.me with polls := s.me.polls + 1, seq := .closed }).ended [0x81, 0x01, 0xFF])) ∧
      (∀ f rest, s.p2c.bytes = f ++ rest →
        ((∃ nd nc fl st, f = [0x90, nd, nc, fl, st]) ∨ (∃ st, f = [0xFF, st]) ∨
          (∃ b, f = [b] ∧ b ≠ 0x81 ∧ b ≠ 0x90 ∧ b ≠ 0xFF)) →
        let counted := { s.me with
          polls := s.me.polls + 1
          logCount := BitVec.ofNat 32 (min (s.me.logCount.toNat + 1) 0xFFFFFFFF) }
        (s.me.polls + 1 ≠ s.cfg.initPollLimit →
          localOnly { s with p2c := ⟨rest, s.p2c.closed⟩ } t counted) ∧
        (s.me.polls + 1 = s.cfg.initPollLimit →
          localOnly { s with p2c := ⟨rest, s.p2c.closed⟩, c2p := closedC2P } t
            (({ counted with seq := .closed }).ended [0x81, 0x01, 0xFF])))

/-- R131: C_UPDATE at EOF closes the child with PEER_DISCONNECTED; with no request outstanding it sends one with the
accumulated cycles and answers NOT_YET_AVAILABLE; with one outstanding and no answer it only accumulates. A push
that a FIFO does not take writes nothing (log 18). -/
def Obligations.CUpdateWithoutAnAnswer : Prop :=
  ∀ (s : State) (e : Word) (d c : Byte), s.mode = .pipeChild → s.me.cmd = .update e d c → s.me.seq = .attached →
    let acc := BitVec.ofNat 32 (min (s.me.acc.toNat + e.toNat) 0xFFFFFFFF)
    let request :=
      [0x10, acc.extractLsb' 0 8, acc.extractLsb' 8 8, acc.extractLsb' 16 8, acc.extractLsb' 24 8, d, c]
    let disc : Byte := if s.me.disc then 0x02 else 0x00
    ∃ t, exec .cUpdate s = .next t ∧
      (s.p2c.bytes = [] → s.p2c.closed = true →
        localOnly { s with c2p := ⟨s.c2p.bytes, true⟩ } t
          (({ s.me with seq := .closed, disc := true, outstanding := false, acc := 0 }).ended
            [0x90, d, c, 0x02, 0x03])) ∧
      (¬ (s.p2c.bytes = [] ∧ s.p2c.closed = true) → s.me.outstanding = false →
        localOnly { s with c2p := s.c2p.push s.cfg.fifoDepth request } t
          (({ s.me with acc := 0, outstanding := true }).ended [0x90, d, c, disc, 0x05])) ∧
      (s.p2c.bytes = [] → s.p2c.closed = false → s.me.outstanding = true →
        localOnly s t (({ s.me with acc := acc }).ended [0x90, d, c, disc, 0x05]))

/-- R131, R112: C_UPDATE with an answer: L.DISC follows it unless it says MALFORMED_STATE; a delivery is handed on and
nothing is sent; any other answer's status is handed on with the host's own values and the next request is sent; a frame
that is no UPDATE_RSP is discarded and counted. A push
that a FIFO does not take writes nothing (log 18). -/
def Obligations.CUpdateWithAnAnswer : Prop :=
  ∀ (s : State) (e : Word) (d c : Byte), s.mode = .pipeChild → s.me.cmd = .update e d c → s.me.seq = .attached →
    s.me.outstanding = true →
    let acc := BitVec.ofNat 32 (min (s.me.acc.toNat + e.toNat) 0xFFFFFFFF)
    let request :=
      [0x10, acc.extractLsb' 0 8, acc.extractLsb' 8 8, acc.extractLsb' 16 8, acc.extractLsb' 24 8, d, c]
    ∃ t, exec .cUpdate s = .next t ∧
      (∀ nd nc fl st rest, s.p2c.bytes = [0x90, nd, nc, fl, st] ++ rest →
        let disc := if st = 0x04 then s.me.disc else fl.getLsbD 1
        let discBit : Byte := if disc then 0x02 else 0x00
        (fl.getLsbD 0 = true →
          localOnly { s with p2c := ⟨rest, s.p2c.closed⟩ } t
            (({ s.me with acc := acc, outstanding := false, disc := disc }).ended [0x90, nd, nc, 0x01 ||| discBit, st])) ∧
        (fl.getLsbD 0 = false →
          localOnly { s with p2c := ⟨rest, s.p2c.closed⟩, c2p := s.c2p.push s.cfg.fifoDepth request } t
            (({ s.me with acc := 0, outstanding := true, disc := disc }).ended [0x90, d, c, discBit, st]))) ∧
      (∀ f rest, s.p2c.bytes = f ++ rest →
        ((∃ st slot, f = [0x81, st, slot]) ∨ (∃ st, f = [0xFF, st]) ∨
          (∃ b, f = [b] ∧ b ≠ 0x81 ∧ b ≠ 0x90 ∧ b ≠ 0xFF)) →
        localOnly { s with p2c := ⟨rest, s.p2c.closed⟩ } t
          (({ s.me with
            acc := acc
            logCount := BitVec.ofNat 32 (min (s.me.logCount.toNat + 1) 0xFFFFFFFF) }).ended
            [0x90, d, c, if s.me.disc then 0x02 else 0x00, 0x05]))

/-- R132: C_CLOSE pushes DETACH unless the parent has closed, closes C2P and answers OK. -/
def Obligations.CCloseResult : Prop :=
  ∀ s : State, s.mode = .pipeChild → s.me.cmd = .detach → s.me.seq = .attached →
    (s.c2p.bytes.length < s.cfg.fifoDepth ∨ s.p2c.closed = true) →
    let sent := if s.p2c.closed then s.c2p else s.c2p.push s.cfg.fifoDepth [0x04]
    ∃ t, exec .cClose s = .next t ∧
      localOnly { s with c2p := ⟨sent.bytes, true⟩ } t
        (({ s.me with seq := .closed, disc := true, outstanding := false, acc := 0 }).ended [0x84, 0x00])

/-- R122, R123: a push appends its whole frame to an open FIFO with room for it, and else writes nothing (the second half
is the model's reading, log 18). -/
def Obligations.PushIsWholeOrNothing : Prop :=
  ∀ (q : Fifo) (depth : Nat) (f : List Byte), q.bytes.length ≤ depth →
    (q.closed = false → q.bytes.length + f.length ≤ depth → q.push depth f = ⟨q.bytes ++ f, false⟩) ∧
    (q.closed = true ∨ (f ≠ [] ∧ depth < q.bytes.length + f.length) → q.push depth f = q) ∧
    (q.push depth f).bytes.length ≤ depth

/-! Whole-machine rules -/

/-- The launch state (R43, R158): the values the rule gives, for every instance; no lock is held, which is how the model
holds that LOCK_OWNER does not exist (log 8); and State.reset is the launch state of one legal instance, whose MODE pair
and parameters are the model's (log 3, 4). -/
def Obligations.ResetIsTheLaunchState : Prop :=
  (∀ p : Params, ∀ X : Side,
    let s := State.launch p
    s.cfg = p ∧ s.storeExists = false ∧ s.storeGen = 0 ∧ s.lockOwner = none ∧ s.c2p = ⟨[], false⟩ ∧ s.p2c = ⟨[], false⟩ ∧
    (s.side X).seq = .detached ∧ (s.side X).cmd = .none ∧ (s.side X).creator = false ∧ (s.side X).polls = 0 ∧
    (s.side X).disc = true ∧ (s.side X).logCount = 0 ∧ (s.side X).outstanding = false ∧ (s.side X).acc = 0) ∧
  ∃ p : Params, p.legal = true ∧ p.lockMayFailSpuriously = true ∧ State.reset = State.launch p

/-- R19: no step changes the configuration. -/
def Obligations.StepKeepsTheConfiguration : Prop :=
  ∀ s t : State, step s = .next t → t.cfg = s.cfg

/-- 10_state.md section 4, R155: the local state of a side is written by no action of the other side. -/
def Obligations.OtherSideIsNotWritten : Prop :=
  ∀ (i : Instr) (s t : State), exec i s = .next t →
    t.turn = s.turn ∧ t.side (otherSide s.turn) = s.side (otherSide s.turn)

/-- 10_state.md section 4, R155: nor read: with any other local state of the other side, an action does the same. -/
def Obligations.OtherSideIsNotRead : Prop :=
  ∀ (i : Instr) (s : State) (l : SideState),
    exec i (s.setSide (otherSide s.turn) l) =
      match exec i s with
      | .next t => .next (t.setSide (otherSide s.turn) l)
      | .fault f => .fault f
      | .refused q => .refused q

/-- R54: no action changes LOCK_OWNER while the other side holds the lock; only COMMIT releases a lock its own side holds;
and a lock that is taken was free and goes to the acting side. CREATE_OR_OPEN is apart where it creates the store: it sets
LOCK_OWNER to NONE (R21). -/
def Obligations.LockChangesHandsByTheRule : Prop :=
  ∀ (i : Instr) (s t : State), exec i s = .next t → ¬ (i = .createOrOpen ∧ s.storeExists = false) →
    (s.lockOwner = some (otherSide s.turn) → t.lockOwner = s.lockOwner) ∧
    (s.lockOwner = some s.turn → t.lockOwner = s.lockOwner ∨ (i = .commit ∧ t.lockOwner = none)) ∧
    (s.lockOwner = none → t.lockOwner = none ∨ (i = .lockAcquire ∧ t.lockOwner = some s.turn))

/-- R121: a PIPE_CHILD side never writes S. -/
def Obligations.ChildNeverWritesTheStore : Prop :=
  ∀ (i : Instr) (s t : State), s.mode = .pipeChild → exec i s = .next t →
    t.store = s.store ∧ t.storeExists = s.storeExists ∧ t.storeGen = s.storeGen

/-- R53, R29: INIT of a store that stays is changed by PUBLISH alone. -/
def Obligations.OnlyPublishWritesInit : Prop :=
  ∀ (i : Instr) (s t : State), exec i s = .next t → s.store.wf = true → s.storeExists = true →
    t.storeExists = true → t.storeGen = s.storeGen → i ≠ .publish → t.readByte 0x00 = s.readByte 0x00

/-! Invariants -/

/-- Every step keeps the store's canonical form, so that equal stores are equal data (the model's form, log 9), and no
step takes a FIFO beyond FIFO_DEPTH bytes (R22). A push without room writes nothing (log 18). -/
def Obligations.StepKeepsTheFormOfStoreAndFifos : Prop :=
  ∀ s t : State, step s = .next t →
    (s.storeCanonical → t.storeCanonical) ∧ (s.fifosBounded → t.fifosBounded)

/-- R104, R105, R106: every step keeps the three store invariants (with the clause that a COMPLETE slot's request bit is
clear, which R98 gives and the induction needs). -/
def Obligations.StepKeepsTheStoreInvariants : Prop :=
  ∀ s t : State, s.storeCanonical → storeInvariant s.store → step s = .next t → storeInvariant t.store

/-- R89 with what makes it inductive: from every safe state a step answers a next state (never a fault or a refusal), and
that state is safe again. That a waiting side's step answers the same state, and the
response port, are the model's (log 12, 15). -/
def Obligations.SafeStatesStepToSafeStates : Prop :=
  ∀ s : State, s.safe → ∃ t, step s = .next t ∧ t.safe

/-- R124: every step keeps the FIFO contents of a conforming pair; they hold at most 8 bytes in C2P and 5 in P2C. -/
def Obligations.StepKeepsThePipeContents : Prop :=
  (∀ s t : State, s.cfg.legalModePair = true → 8 ≤ s.cfg.fifoDepth → pipeOk s → step s = .next t → pipeOk t) ∧
  (∀ s : State, s.cfg.legalModePair = true → pipeOk s → s.c2p.bytes.length ≤ 8 ∧ s.p2c.bytes.length ≤ 5)

/-- The launch state of every legal instance meets the invariants that the steps keep. Where R43 gives no value this rests on
the model's: that it is safe uses L.GEN = 0, which is at most S_GEN (log 7), and LOCK_OWNER = NONE, which no side holds
(log 8). -/
def Obligations.LaunchMeetsTheInvariants : Prop :=
  ∀ p : Params, p.legalModePair = true →
    (State.launch p).safe ∧ storeInvariant (State.launch p).store ∧ (State.launch p).fifosBounded ∧
    pipeOk (State.launch p)
end

