-- ==== Sys2Proof/Laws/Memory.lean ====
section
/-! SUPPORT. The store's bytes: read after write, the canonical form, equal stores by equal bytes, and each field's read
after each field's write. -/

namespace Sys2Proof.Machine

/-- The canonical form as a property (offsets rising, below 0x10, no byte 0x00 listed). -/
theorem wf_iff (m : Memory) : m.wf = true ↔
    m.Pairwise (fun x y => x.1 < y.1) ∧ ∀ x ∈ m, x.1 < storeSize ∧ x.2 ≠ unlistedByte := by
  simp [Memory.wf, List.all_eq_true]

theorem wf_nil : Memory.wf [] = true := by decide

theorem wf_tail {x : Host.Cell} {m : Memory} (h : Memory.wf (x :: m) = true) : Memory.wf m = true := by
  rw [wf_iff] at *
  exact ⟨(List.pairwise_cons.mp h.1).2, fun y hy => h.2 y (List.mem_cons_of_mem _ hy)⟩

theorem read_eq_unlisted {m : Memory} {a : Nat} (h : ∀ x ∈ m, a < x.1) : m.read a = unlistedByte := by
  induction m with
  | nil => rfl
  | cons x m ih =>
    have hx := h x List.mem_cons_self
    have : a ≠ x.1 := by omega
    simp only [Memory.read, this, if_false]
    exact ih fun y hy => h y (List.mem_cons_of_mem _ hy)

theorem read_write_same (m : Memory) (a : Nat) (v : Byte) (h : m.wf = true) : (m.write a v).read a = v := by
  induction m with
  | nil => by_cases hv : v = unlistedByte <;> simp [Memory.write, Memory.read, hv]
  | cons x m ih =>
    obtain ⟨b, w⟩ := x
    have hp := (List.pairwise_cons.mp ((wf_iff _).mp h).1).1
    have key : ∀ c, c ≤ b → Memory.read m c = unlistedByte := fun c hc =>
      read_eq_unlisted fun y hy => by have := hp y hy; simp only at this; omega
    simp only [Memory.write]
    split_ifs with h1 h2 h3 h4
    · have : a ≠ b := by omega
      simp only [Memory.read, this, if_false, h2]
      exact key a (by omega)
    · simp [Memory.read]
    · rw [h4, key a (by omega)]
    · simp [Memory.read]
    · simp only [Memory.read, h3, if_false]; exact ih (wf_tail h)

theorem read_write_ne (m : Memory) (a b : Nat) (v : Byte) (hne : b ≠ a) (h : m.wf = true) :
    (m.write a v).read b = m.read b := by
  induction m with
  | nil => by_cases hv : v = unlistedByte <;> simp [Memory.write, Memory.read, hv, hne]
  | cons x m ih =>
    obtain ⟨c, w⟩ := x
    simp only [Memory.write]
    split_ifs with h1 h2 h3 h4
    · rfl
    · simp [Memory.read, hne]
    · have : b ≠ c := by omega
      simp [Memory.read, this]
    · have : b ≠ c := by omega
      simp [Memory.read, hne, this]
    · simp only [Memory.read]; split_ifs
      · rfl
      · exact ih (wf_tail h)

theorem mem_write {m : Memory} {a : Nat} {v : Byte} {x : Host.Cell} (h : x ∈ m.write a v) :
    x ∈ m ∨ (x = (a, v) ∧ v ≠ unlistedByte) := by
  induction m with
  | nil =>
    simp only [Memory.write] at h
    split_ifs at h with hv
    · simp at h
    · exact Or.inr ⟨by simpa using h, hv⟩
  | cons y m ih =>
    obtain ⟨b, w⟩ := y
    simp only [Memory.write] at h
    split_ifs at h with h1 h2 h3 h4
    · exact Or.inl h
    · rcases List.mem_cons.mp h with h | h
      · exact Or.inr ⟨h, h2⟩
      · exact Or.inl h
    · exact Or.inl (List.mem_cons_of_mem _ h)
    · rcases List.mem_cons.mp h with h | h
      · exact Or.inr ⟨h, h4⟩
      · exact Or.inl (List.mem_cons_of_mem _ h)
    · rcases List.mem_cons.mp h with h | h
      · exact Or.inl (h ▸ List.mem_cons_self)
      · exact (ih h).imp (List.mem_cons_of_mem _) id

/-- A write below 0x10 keeps the canonical form. -/
theorem wf_write (m : Memory) (a : Nat) (v : Byte) (ha : a < storeSize) (h : m.wf = true) :
    (m.write a v).wf = true := by
  rw [wf_iff]
  refine ⟨?_, fun x hx => ?_⟩
  · induction m with
    | nil => by_cases hv : v = unlistedByte <;> simp [Memory.write, hv]
    | cons y m ih =>
      obtain ⟨b, w⟩ := y
      have hp := List.pairwise_cons.mp ((wf_iff _).mp h).1
      simp only [Memory.write]
      split_ifs with h1 h2 h3 h4
      · exact List.pairwise_cons.mpr hp
      · refine List.pairwise_cons.mpr ⟨fun z hz => ?_, List.pairwise_cons.mpr hp⟩
        rcases List.mem_cons.mp hz with hz | hz
        · subst hz; exact h1
        · have := hp.1 z hz; simp only at this; show a < z.1; omega
      · exact hp.2
      · exact List.pairwise_cons.mpr ⟨fun z hz => by have := hp.1 z hz; simp only at this; show a < z.1; omega, hp.2⟩
      · refine List.pairwise_cons.mpr ⟨fun z hz => ?_, ih (wf_tail h)⟩
        rcases mem_write hz with hz | ⟨hz, -⟩
        · exact hp.1 z hz
        · subst hz; show b < a; omega
  · rcases mem_write hx with hx | ⟨hx, hv⟩
    · exact ((wf_iff _).mp h).2 x hx
    · subst hx; exact ⟨ha, hv⟩

/-- A fill within the store keeps the canonical form. -/
theorem wf_fill (m : Memory) (a : Nat) (v : Byte) (n : Nat) (ha : a + n ≤ storeSize) (h : m.wf = true) :
    (m.fill a v n).wf = true := by
  induction n with
  | zero => exact h
  | succ n ih => exact wf_write _ _ _ (by omega) (ih (by omega))

theorem read_fill (m : Memory) (a : Nat) (v : Byte) (n b : Nat) (hn : a + n ≤ storeSize) (h : m.wf = true) :
    (m.fill a v n).read b = if a ≤ b ∧ b < a + n then v else m.read b := by
  induction n with
  | zero =>
    have : ¬ (a ≤ b ∧ b < a + 0) := by omega
    simp only [Memory.fill, this, if_false]
  | succ n ih =>
    simp only [Memory.fill]
    by_cases hb : b = a + n
    · subst hb
      rw [read_write_same _ _ _ (wf_fill m a v n (by omega) h)]; simp
    · rw [read_write_ne _ _ _ _ hb (wf_fill m a v n (by omega) h), ih (by omega)]
      have : (a ≤ b ∧ b < a + n) ↔ (a ≤ b ∧ b < a + (n + 1)) := by omega
      simp only [this]

theorem read_of_size_le {m : Memory} (h : m.wf = true) {a : Nat} (ha : storeSize ≤ a) : m.read a = unlistedByte := by
  induction m with
  | nil => rfl
  | cons x m ih =>
    have hx := (((wf_iff _).mp h).2 x List.mem_cons_self).1
    have : a ≠ x.1 := by omega
    simp only [Memory.read, this, if_false]; exact ih (wf_tail h)

/-- Two canonical stores with the same bytes are equal. -/
theorem ext_of_read {m m' : Memory} (h : m.wf = true) (h' : m'.wf = true) (hr : ∀ a, m.read a = m'.read a) :
    m = m' := by
  induction m generalizing m' with
  | nil =>
    cases m' with
    | nil => rfl
    | cons x m' =>
      have := hr x.1
      simp only [Memory.read, if_true] at this
      exact absurd this.symm (((wf_iff _).mp h').2 x List.mem_cons_self).2
  | cons x m ih =>
    have hx := (wf_iff _).mp h
    cases m' with
    | nil =>
      have := hr x.1
      simp only [Memory.read, if_true] at this
      exact absurd this (hx.2 x List.mem_cons_self).2
    | cons y m' =>
      have hy := (wf_iff _).mp h'
      obtain ⟨a, v⟩ := x; obtain ⟨b, w⟩ := y
      have hlt : ∀ c, c ≤ a → Memory.read m c = unlistedByte := fun c hc =>
        read_eq_unlisted fun z hz => by have := (List.pairwise_cons.mp hx.1).1 z hz; simp only at this; omega
      have hlt' : ∀ c, c ≤ b → Memory.read m' c = unlistedByte := fun c hc =>
        read_eq_unlisted fun z hz => by have := (List.pairwise_cons.mp hy.1).1 z hz; simp only at this; omega
      have hab : a = b := by
        by_contra hne
        rcases Nat.lt_or_gt_of_ne hne with hl | hl
        · have := hr a
          simp only [Memory.read, if_true, hne, if_false] at this
          exact (hx.2 (a, v) List.mem_cons_self).2 (this.trans (hlt' a (by omega)))
        · have := hr b
          simp only [Memory.read, if_true, Ne.symm hne, if_false] at this
          exact (hy.2 (b, w) List.mem_cons_self).2 (this.symm.trans (hlt b (by omega)))
      subst hab
      have hvw : v = w := by have := hr a; simpa [Memory.read] using this
      subst hvw
      refine congrArg _ (ih (wf_tail h) (wf_tail h') fun c => ?_)
      by_cases hc : c = a
      · subst hc; rw [hlt c le_rfl, hlt' c le_rfl]
      · have := hr c; simpa [Memory.read, hc] using this

/-! The fields: each write keeps the canonical form. -/
theorem base_lt (i : Slot) (k : Nat) (hk : k < 4) : i.base + k < storeSize := by
  cases i <;> simp only [Slot.base, storeSize] <;> omega

theorem wf_setInit (m : Memory) (v : Byte) (h : m.wf = true) : (m.setInit v).wf = true :=
  wf_write _ _ _ (by decide) h
theorem wf_setAlive (m : Memory) (i : Slot) (v : Byte) (h : m.wf = true) : (m.setAlive i v).wf = true :=
  wf_write _ _ _ (base_lt i 0 (by decide)) h
theorem wf_setData (m : Memory) (i : Slot) (v : Byte) (h : m.wf = true) : (m.setData i v).wf = true :=
  wf_write _ _ _ (base_lt i 1 (by decide)) h
theorem wf_setControl (m : Memory) (i : Slot) (v : Byte) (h : m.wf = true) : (m.setControl i v).wf = true :=
  wf_write _ _ _ (base_lt i 2 (by decide)) h
theorem wf_setPhase (m : Memory) (i : Slot) (v : Byte) (h : m.wf = true) : (m.setPhase i v).wf = true :=
  wf_write _ _ _ (base_lt i 3 (by decide)) h
theorem wf_setCounter (m : Memory) (v : Half) (h : m.wf = true) : (m.setCounter v).wf = true :=
  wf_write _ _ _ (by decide) (wf_write _ _ _ (by decide) h)

/-- COUNTER's two bytes joined again (R47). -/
theorem counter_bytes (v : Half) :
    (v.extractLsb' 0 8).setWidth 16 ||| ((v.extractLsb' 8 8).setWidth 16 <<< 8) = v := by
  ext k hk
  by_cases h : k < 8
  · simp [h]; grind
  · have : k - 8 < 8 := by omega
    simp [h, this]; grind

/-! Reads after writes of fields, in a canonical store. -/
section
variable (m : Memory) (h : m.wf = true)
include h

theorem alive_setAlive (i : Slot) (v : Byte) : (m.setAlive i v).alive i = v := read_write_same _ _ _ h
theorem data_setData (i : Slot) (v : Byte) : (m.setData i v).data i = v := read_write_same _ _ _ h
theorem control_setControl (i : Slot) (v : Byte) : (m.setControl i v).control i = v := read_write_same _ _ _ h
theorem phase_setPhase (i : Slot) (v : Byte) : (m.setPhase i v).phase i = v := read_write_same _ _ _ h
theorem init_setInit (v : Byte) : (m.setInit v).init = v := read_write_same _ _ _ h

/-- A field write leaves every byte outside the field as it was. -/
theorem read_setAlive_ne (i : Slot) (v : Byte) (a : Nat) (ha : a ≠ i.base + 0) : (m.setAlive i v).read a = m.read a :=
  read_write_ne _ _ _ _ ha h
theorem read_setData_ne (i : Slot) (v : Byte) (a : Nat) (ha : a ≠ i.base + 1) : (m.setData i v).read a = m.read a :=
  read_write_ne _ _ _ _ ha h
theorem read_setControl_ne (i : Slot) (v : Byte) (a : Nat) (ha : a ≠ i.base + 2) :
    (m.setControl i v).read a = m.read a := read_write_ne _ _ _ _ ha h
theorem read_setPhase_ne (i : Slot) (v : Byte) (a : Nat) (ha : a ≠ i.base + 3) : (m.setPhase i v).read a = m.read a :=
  read_write_ne _ _ _ _ ha h
theorem read_setInit_ne (v : Byte) (a : Nat) (ha : a ≠ initOffset) : (m.setInit v).read a = m.read a :=
  read_write_ne _ _ _ _ ha h
theorem read_setCounter_ne (v : Half) (a : Nat) (ha : a ≠ 0x0C) (ha' : a ≠ 0x0D) :
    (m.setCounter v).read a = m.read a := by
  have h1 : (m.write counterOffset (v.extractLsb' 0 8)).wf = true := wf_write _ _ _ (by decide) h
  rw [Memory.setCounter, read_write_ne _ _ _ _ (by simpa [counterOffset] using ha') h1,
    read_write_ne _ _ _ _ (by simpa [counterOffset] using ha) h]
theorem read_setCounter_low (v : Half) : (m.setCounter v).read 0x0C = v.extractLsb' 0 8 := by
  have h1 : (m.write counterOffset (v.extractLsb' 0 8)).wf = true := wf_write _ _ _ (by decide) h
  rw [Memory.setCounter, read_write_ne _ _ _ _ (by decide) h1]
  exact read_write_same _ _ _ h
theorem read_setCounter_high (v : Half) : (m.setCounter v).read 0x0D = v.extractLsb' 8 8 := by
  have h1 : (m.write counterOffset (v.extractLsb' 0 8)).wf = true := wf_write _ _ _ (by decide) h
  exact read_write_same _ _ _ h1
theorem counter_setCounter (v : Half) : (m.setCounter v).counter = v := by
  have h1 := read_setCounter_low m h v
  have h2 := read_setCounter_high m h v
  simp only [Memory.counter, counterOffset, h1, h2]
  exact counter_bytes v

end

end Sys2Proof.Machine
end

