-- ==== Sys2Proof/Laws/Fields.lean ====
section
/-! SUPPORT. Each field of the store read after each field's write, in a canonical store: the rewriting rules for STEP's
stages and the slots' claims. -/

namespace Sys2Proof.Machine

theorem slot_eq_or_peer (i j : Slot) : j = i ∨ j = i.peer := by cases i <;> cases j <;> decide
theorem peer_ne (i : Slot) : i.peer ≠ i := by cases i <;> decide
theorem ne_peer (i : Slot) : i ≠ i.peer := by cases i <;> decide
@[simp] theorem peer_peer (i : Slot) : i.peer.peer = i := by cases i <;> rfl

/-- Two slot bytes have the same offset only when they are the same byte of the same slot. -/
theorem slotOffset_ne (i j : Slot) (k l : Nat) (hk : k < 4) (hl : l < 4) (h : i ≠ j ∨ k ≠ l) :
    i.base + k ≠ j.base + l := by
  cases i <;> cases j <;> simp only [Slot.base] <;> simp at h <;> omega

theorem slotOffset_ne_counter (i : Slot) (k : Nat) (hk : k < 4) : i.base + k ≠ 0x0C ∧ i.base + k ≠ 0x0D := by
  cases i <;> simp only [Slot.base] <;> omega

theorem slotOffset_ne_init (i : Slot) (k : Nat) : i.base + k ≠ initOffset := by
  cases i <;> simp only [Slot.base, initOffset] <;> omega

theorem wf_abandonedFields (m : Memory) (i : Slot) (h : m.wf = true) : ((m.setPhase i Phase.ready).setCounter 0).wf = true :=
  wf_setCounter _ _ (wf_setPhase _ _ _ h)

section
variable (m : Memory) (h : m.wf = true)
include h

theorem alive_setAlive_eq (i j : Slot) (v : Byte) :
    (m.setAlive i v).alive j = if j = i then v else m.alive j := by
  split_ifs with hij
  · subst hij; exact read_write_same _ _ _ h
  · exact read_write_ne _ _ _ _ (slotOffset_ne j i 0 0 (by decide) (by decide) (Or.inl hij)) h
theorem alive_setData (i j : Slot) (v : Byte) : (m.setData i v).alive j = m.alive j :=
  read_write_ne _ _ _ _ (slotOffset_ne j i 0 1 (by decide) (by decide) (Or.inr (by decide))) h
theorem alive_setControl (i j : Slot) (v : Byte) : (m.setControl i v).alive j = m.alive j :=
  read_write_ne _ _ _ _ (slotOffset_ne j i 0 2 (by decide) (by decide) (Or.inr (by decide))) h
theorem alive_setPhase (i j : Slot) (v : Byte) : (m.setPhase i v).alive j = m.alive j :=
  read_write_ne _ _ _ _ (slotOffset_ne j i 0 3 (by decide) (by decide) (Or.inr (by decide))) h
theorem alive_setCounter (j : Slot) (v : Half) : (m.setCounter v).alive j = m.alive j :=
  read_setCounter_ne m h v _ (slotOffset_ne_counter j 0 (by decide)).1 (slotOffset_ne_counter j 0 (by decide)).2
theorem alive_setInit (j : Slot) (v : Byte) : (m.setInit v).alive j = m.alive j :=
  read_write_ne _ _ _ _ (slotOffset_ne_init j 0) h
theorem data_setAlive (i j : Slot) (v : Byte) : (m.setAlive i v).data j = m.data j :=
  read_write_ne _ _ _ _ (slotOffset_ne j i 1 0 (by decide) (by decide) (Or.inr (by decide))) h
theorem data_setData_eq (i j : Slot) (v : Byte) :
    (m.setData i v).data j = if j = i then v else m.data j := by
  split_ifs with hij
  · subst hij; exact read_write_same _ _ _ h
  · exact read_write_ne _ _ _ _ (slotOffset_ne j i 1 1 (by decide) (by decide) (Or.inl hij)) h
theorem data_setControl (i j : Slot) (v : Byte) : (m.setControl i v).data j = m.data j :=
  read_write_ne _ _ _ _ (slotOffset_ne j i 1 2 (by decide) (by decide) (Or.inr (by decide))) h
theorem data_setPhase (i j : Slot) (v : Byte) : (m.setPhase i v).data j = m.data j :=
  read_write_ne _ _ _ _ (slotOffset_ne j i 1 3 (by decide) (by decide) (Or.inr (by decide))) h
theorem data_setCounter (j : Slot) (v : Half) : (m.setCounter v).data j = m.data j :=
  read_setCounter_ne m h v _ (slotOffset_ne_counter j 1 (by decide)).1 (slotOffset_ne_counter j 1 (by decide)).2
theorem data_setInit (j : Slot) (v : Byte) : (m.setInit v).data j = m.data j :=
  read_write_ne _ _ _ _ (slotOffset_ne_init j 1) h
theorem control_setAlive (i j : Slot) (v : Byte) : (m.setAlive i v).control j = m.control j :=
  read_write_ne _ _ _ _ (slotOffset_ne j i 2 0 (by decide) (by decide) (Or.inr (by decide))) h
theorem control_setData (i j : Slot) (v : Byte) : (m.setData i v).control j = m.control j :=
  read_write_ne _ _ _ _ (slotOffset_ne j i 2 1 (by decide) (by decide) (Or.inr (by decide))) h
theorem control_setControl_eq (i j : Slot) (v : Byte) :
    (m.setControl i v).control j = if j = i then v else m.control j := by
  split_ifs with hij
  · subst hij; exact read_write_same _ _ _ h
  · exact read_write_ne _ _ _ _ (slotOffset_ne j i 2 2 (by decide) (by decide) (Or.inl hij)) h
theorem control_setPhase (i j : Slot) (v : Byte) : (m.setPhase i v).control j = m.control j :=
  read_write_ne _ _ _ _ (slotOffset_ne j i 2 3 (by decide) (by decide) (Or.inr (by decide))) h
theorem control_setCounter (j : Slot) (v : Half) : (m.setCounter v).control j = m.control j :=
  read_setCounter_ne m h v _ (slotOffset_ne_counter j 2 (by decide)).1 (slotOffset_ne_counter j 2 (by decide)).2
theorem control_setInit (j : Slot) (v : Byte) : (m.setInit v).control j = m.control j :=
  read_write_ne _ _ _ _ (slotOffset_ne_init j 2) h
theorem phase_setAlive (i j : Slot) (v : Byte) : (m.setAlive i v).phase j = m.phase j :=
  read_write_ne _ _ _ _ (slotOffset_ne j i 3 0 (by decide) (by decide) (Or.inr (by decide))) h
theorem phase_setData (i j : Slot) (v : Byte) : (m.setData i v).phase j = m.phase j :=
  read_write_ne _ _ _ _ (slotOffset_ne j i 3 1 (by decide) (by decide) (Or.inr (by decide))) h
theorem phase_setControl (i j : Slot) (v : Byte) : (m.setControl i v).phase j = m.phase j :=
  read_write_ne _ _ _ _ (slotOffset_ne j i 3 2 (by decide) (by decide) (Or.inr (by decide))) h
theorem phase_setPhase_eq (i j : Slot) (v : Byte) :
    (m.setPhase i v).phase j = if j = i then v else m.phase j := by
  split_ifs with hij
  · subst hij; exact read_write_same _ _ _ h
  · exact read_write_ne _ _ _ _ (slotOffset_ne j i 3 3 (by decide) (by decide) (Or.inl hij)) h
theorem phase_setCounter (j : Slot) (v : Half) : (m.setCounter v).phase j = m.phase j :=
  read_setCounter_ne m h v _ (slotOffset_ne_counter j 3 (by decide)).1 (slotOffset_ne_counter j 3 (by decide)).2
theorem phase_setInit (j : Slot) (v : Byte) : (m.setInit v).phase j = m.phase j :=
  read_write_ne _ _ _ _ (slotOffset_ne_init j 3) h
theorem init_setAlive (i : Slot) (v : Byte) : (m.setAlive i v).init = m.init :=
  read_write_ne _ _ _ _ (Ne.symm (slotOffset_ne_init i 0)) h
theorem counter_setAlive (i : Slot) (v : Byte) : (m.setAlive i v).counter = m.counter := by
  have h1 := read_write_ne m (i.base + 0) 0x0C v (Ne.symm (slotOffset_ne_counter i 0 (by decide)).1) h
  have h2 := read_write_ne m (i.base + 0) 0x0D v (Ne.symm (slotOffset_ne_counter i 0 (by decide)).2) h
  simp only [Memory.counter, Memory.setAlive, counterOffset, h1, h2]
theorem init_setData (i : Slot) (v : Byte) : (m.setData i v).init = m.init :=
  read_write_ne _ _ _ _ (Ne.symm (slotOffset_ne_init i 1)) h
theorem counter_setData (i : Slot) (v : Byte) : (m.setData i v).counter = m.counter := by
  have h1 := read_write_ne m (i.base + 1) 0x0C v (Ne.symm (slotOffset_ne_counter i 1 (by decide)).1) h
  have h2 := read_write_ne m (i.base + 1) 0x0D v (Ne.symm (slotOffset_ne_counter i 1 (by decide)).2) h
  simp only [Memory.counter, Memory.setData, counterOffset, h1, h2]
theorem init_setControl (i : Slot) (v : Byte) : (m.setControl i v).init = m.init :=
  read_write_ne _ _ _ _ (Ne.symm (slotOffset_ne_init i 2)) h
theorem counter_setControl (i : Slot) (v : Byte) : (m.setControl i v).counter = m.counter := by
  have h1 := read_write_ne m (i.base + 2) 0x0C v (Ne.symm (slotOffset_ne_counter i 2 (by decide)).1) h
  have h2 := read_write_ne m (i.base + 2) 0x0D v (Ne.symm (slotOffset_ne_counter i 2 (by decide)).2) h
  simp only [Memory.counter, Memory.setControl, counterOffset, h1, h2]
theorem init_setPhase (i : Slot) (v : Byte) : (m.setPhase i v).init = m.init :=
  read_write_ne _ _ _ _ (Ne.symm (slotOffset_ne_init i 3)) h
theorem counter_setPhase (i : Slot) (v : Byte) : (m.setPhase i v).counter = m.counter := by
  have h1 := read_write_ne m (i.base + 3) 0x0C v (Ne.symm (slotOffset_ne_counter i 3 (by decide)).1) h
  have h2 := read_write_ne m (i.base + 3) 0x0D v (Ne.symm (slotOffset_ne_counter i 3 (by decide)).2) h
  simp only [Memory.counter, Memory.setPhase, counterOffset, h1, h2]
theorem init_setCounter (v : Half) : (m.setCounter v).init = m.init :=
  read_setCounter_ne m h v _ (by decide) (by decide)
theorem counter_setInit (v : Byte) : (m.setInit v).counter = m.counter := by
  have h1 := read_write_ne m initOffset 0x0C v (by decide) h
  have h2 := read_write_ne m initOffset 0x0D v (by decide) h
  simp only [Memory.counter, Memory.setInit, counterOffset, h1, h2]

end

end Sys2Proof.Machine
end

