-- ==== Sys2Proof/Laws/State.lean ====
section
/-! SUPPORT. The small lemmas of the state's updates: one per field per update, true by unfolding the update once. -/

namespace Sys2Proof.Machine

theorem otherSide_ne (X : Side) : otherSide X ≠ X := by cases X <;> decide
@[simp] theorem otherSide_otherSide (X : Side) : otherSide (otherSide X) = X := by cases X <;> rfl
theorem eq_or_eq_otherSide (X Y : Side) : Y = X ∨ Y = otherSide X := by cases X <;> cases Y <;> decide

/-! setSide -/
@[simp] theorem setSide_side_same (s : State) (X : Side) (l : SideState) : (s.setSide X l).side X = l := by
  cases X <;> rfl
@[simp] theorem setSide_side_other (s : State) (X : Side) (l : SideState) :
    (s.setSide X l).side (otherSide X) = s.side (otherSide X) := by cases X <;> rfl
theorem setSide_side_ne (s : State) (X Y : Side) (l : SideState) (h : Y ≠ X) :
    (s.setSide X l).side Y = s.side Y := by cases X <;> cases Y <;> first | rfl | exact absurd rfl h
@[simp] theorem setSide_setSide (s : State) (X : Side) (l l' : SideState) :
    (s.setSide X l).setSide X l' = s.setSide X l' := by cases X <;> rfl
@[simp] theorem setSide_self (s : State) (X : Side) : s.setSide X (s.side X) = s := by cases X <;> rfl
@[simp] theorem setSide_cfg (s : State) (X : Side) (l : SideState) : (s.setSide X l).cfg = s.cfg := by cases X <;> rfl
@[simp] theorem setSide_turn (s : State) (X : Side) (l : SideState) : (s.setSide X l).turn = s.turn := by cases X <;> rfl
@[simp] theorem setSide_storeExists (s : State) (X : Side) (l : SideState) :
    (s.setSide X l).storeExists = s.storeExists := by cases X <;> rfl
@[simp] theorem setSide_storeGen (s : State) (X : Side) (l : SideState) :
    (s.setSide X l).storeGen = s.storeGen := by cases X <;> rfl
@[simp] theorem setSide_store (s : State) (X : Side) (l : SideState) : (s.setSide X l).store = s.store := by
  cases X <;> rfl
@[simp] theorem setSide_lockOwner (s : State) (X : Side) (l : SideState) :
    (s.setSide X l).lockOwner = s.lockOwner := by cases X <;> rfl
@[simp] theorem setSide_c2p (s : State) (X : Side) (l : SideState) : (s.setSide X l).c2p = s.c2p := by cases X <;> rfl
@[simp] theorem setSide_p2c (s : State) (X : Side) (l : SideState) : (s.setSide X l).p2c = s.p2c := by cases X <;> rfl
@[simp] theorem setSide_schedule (s : State) (X : Side) (l : SideState) :
    (s.setSide X l).schedule = s.schedule := by cases X <;> rfl
@[simp] theorem setSide_oracle (s : State) (X : Side) (l : SideState) :
    (s.setSide X l).oracle = s.oracle := by cases X <;> rfl
@[simp] theorem setSide_draws (s : State) (X : Side) (l : SideState) : (s.setSide X l).draws = s.draws := by
  cases X <;> rfl

/-! setMe -/
@[simp] theorem setMe_me (s : State) (l : SideState) : (s.setMe l).me = l := by simp [State.setMe, State.me]
@[simp] theorem setMe_side_turn (s : State) (l : SideState) : (s.setMe l).side s.turn = l := by simp [State.setMe]
@[simp] theorem setMe_side_other (s : State) (l : SideState) :
    (s.setMe l).side (otherSide s.turn) = s.side (otherSide s.turn) := by simp [State.setMe]
@[simp] theorem setMe_setMe (s : State) (l l' : SideState) : (s.setMe l).setMe l' = s.setMe l' := by simp [State.setMe]
@[simp] theorem setMe_cfg (s : State) (l : SideState) : (s.setMe l).cfg = s.cfg := by simp [State.setMe]
@[simp] theorem setMe_turn (s : State) (l : SideState) : (s.setMe l).turn = s.turn := by simp [State.setMe]
@[simp] theorem setMe_mode (s : State) (l : SideState) : (s.setMe l).mode = s.mode := by simp [State.mode]
@[simp] theorem setMe_storeExists (s : State) (l : SideState) : (s.setMe l).storeExists = s.storeExists := by
  simp [State.setMe]
@[simp] theorem setMe_storeGen (s : State) (l : SideState) : (s.setMe l).storeGen = s.storeGen := by simp [State.setMe]
@[simp] theorem setMe_store (s : State) (l : SideState) : (s.setMe l).store = s.store := by simp [State.setMe]
@[simp] theorem setMe_lockOwner (s : State) (l : SideState) : (s.setMe l).lockOwner = s.lockOwner := by
  simp [State.setMe]
@[simp] theorem setMe_c2p (s : State) (l : SideState) : (s.setMe l).c2p = s.c2p := by simp [State.setMe]
@[simp] theorem setMe_p2c (s : State) (l : SideState) : (s.setMe l).p2c = s.p2c := by simp [State.setMe]
@[simp] theorem setMe_schedule (s : State) (l : SideState) : (s.setMe l).schedule = s.schedule := by simp [State.setMe]
@[simp] theorem setMe_oracle (s : State) (l : SideState) : (s.setMe l).oracle = s.oracle := by simp [State.setMe]
@[simp] theorem setMe_draws (s : State) (l : SideState) : (s.setMe l).draws = s.draws := by simp [State.setMe]
@[simp] theorem setMe_readByte (s : State) (l : SideState) (a : Nat) : (s.setMe l).readByte a = s.readByte a := by
  simp [State.readByte]

/-! respond -/
@[simp] theorem respond_me (s : State) (f : Instr) :
    (s.respond f).me = { s.me with cmd := .none, host := { s.me.host with response := some (encode f) } } := by
  simp [State.respond]
@[simp] theorem respond_side_other (s : State) (f : Instr) :
    (s.respond f).side (otherSide s.turn) = s.side (otherSide s.turn) := by simp [State.respond]
@[simp] theorem respond_cfg (s : State) (f : Instr) : (s.respond f).cfg = s.cfg := by simp [State.respond]
@[simp] theorem respond_turn (s : State) (f : Instr) : (s.respond f).turn = s.turn := by simp [State.respond]
@[simp] theorem respond_storeExists (s : State) (f : Instr) : (s.respond f).storeExists = s.storeExists := by
  simp [State.respond]
@[simp] theorem respond_storeGen (s : State) (f : Instr) : (s.respond f).storeGen = s.storeGen := by
  simp [State.respond]
@[simp] theorem respond_store (s : State) (f : Instr) : (s.respond f).store = s.store := by simp [State.respond]
@[simp] theorem respond_lockOwner (s : State) (f : Instr) : (s.respond f).lockOwner = s.lockOwner := by
  simp [State.respond]
@[simp] theorem respond_c2p (s : State) (f : Instr) : (s.respond f).c2p = s.c2p := by simp [State.respond]
@[simp] theorem respond_p2c (s : State) (f : Instr) : (s.respond f).p2c = s.p2c := by simp [State.respond]
@[simp] theorem respond_schedule (s : State) (f : Instr) : (s.respond f).schedule = s.schedule := by
  simp [State.respond]
@[simp] theorem respond_oracle (s : State) (f : Instr) : (s.respond f).oracle = s.oracle := by simp [State.respond]
@[simp] theorem respond_draws (s : State) (f : Instr) : (s.respond f).draws = s.draws := by simp [State.respond]

/-! receive -/
@[simp] theorem receive_me (s : State) (f : Instr) :
    (s.receive f).me = { s.me with
      host := { s.me.host with response := none, received := s.me.host.received ++ [encode f] } } := by
  simp [State.receive]
@[simp] theorem receive_side_other (s : State) (f : Instr) :
    (s.receive f).side (otherSide s.turn) = s.side (otherSide s.turn) := by simp [State.receive]
@[simp] theorem receive_turn (s : State) (f : Instr) : (s.receive f).turn = s.turn := by simp [State.receive]
@[simp] theorem receive_cfg (s : State) (f : Instr) : (s.receive f).cfg = s.cfg := by simp [State.receive]
@[simp] theorem receive_store (s : State) (f : Instr) : (s.receive f).store = s.store := by simp [State.receive]
@[simp] theorem receive_storeExists (s : State) (f : Instr) : (s.receive f).storeExists = s.storeExists := by
  simp [State.receive]
@[simp] theorem receive_storeGen (s : State) (f : Instr) : (s.receive f).storeGen = s.storeGen := by
  simp [State.receive]
@[simp] theorem receive_lockOwner (s : State) (f : Instr) : (s.receive f).lockOwner = s.lockOwner := by
  simp [State.receive]
@[simp] theorem receive_c2p (s : State) (f : Instr) : (s.receive f).c2p = s.c2p := by simp [State.receive]
@[simp] theorem receive_p2c (s : State) (f : Instr) : (s.receive f).p2c = s.p2c := by simp [State.receive]
@[simp] theorem receive_schedule (s : State) (f : Instr) : (s.receive f).schedule = s.schedule := by
  simp [State.receive]
@[simp] theorem receive_oracle (s : State) (f : Instr) : (s.receive f).oracle = s.oracle := by simp [State.receive]
@[simp] theorem receive_draws (s : State) (f : Instr) : (s.receive f).draws = s.draws := by simp [State.receive]

/-! afterDraw -/
@[simp] theorem afterDraw_cfg (s : State) : s.afterDraw.cfg = s.cfg := by unfold State.afterDraw; split <;> rfl
@[simp] theorem afterDraw_turn (s : State) : s.afterDraw.turn = s.turn := by unfold State.afterDraw; split <;> rfl
@[simp] theorem afterDraw_side (s : State) (X : Side) : s.afterDraw.side X = s.side X := by
  unfold State.afterDraw; split <;> cases X <;> rfl
@[simp] theorem afterDraw_me (s : State) : s.afterDraw.me = s.me := by simp [State.me]
@[simp] theorem afterDraw_mode (s : State) : s.afterDraw.mode = s.mode := by simp [State.mode]
@[simp] theorem afterDraw_store (s : State) : s.afterDraw.store = s.store := by unfold State.afterDraw; split <;> rfl
@[simp] theorem afterDraw_storeExists (s : State) : s.afterDraw.storeExists = s.storeExists := by
  unfold State.afterDraw; split <;> rfl
@[simp] theorem afterDraw_storeGen (s : State) : s.afterDraw.storeGen = s.storeGen := by
  unfold State.afterDraw; split <;> rfl
@[simp] theorem afterDraw_lockOwner (s : State) : s.afterDraw.lockOwner = s.lockOwner := by
  unfold State.afterDraw; split <;> rfl
@[simp] theorem afterDraw_c2p (s : State) : s.afterDraw.c2p = s.c2p := by unfold State.afterDraw; split <;> rfl
@[simp] theorem afterDraw_p2c (s : State) : s.afterDraw.p2c = s.p2c := by unfold State.afterDraw; split <;> rfl
@[simp] theorem afterDraw_schedule (s : State) : s.afterDraw.schedule = s.schedule := by
  unfold State.afterDraw; split <;> rfl

/-! chooseSide -/
@[simp] theorem chooseSide_cfg (s : State) : s.chooseSide.cfg = s.cfg := by unfold State.chooseSide; split <;> rfl
@[simp] theorem chooseSide_turn (s : State) : s.chooseSide.turn = s.nextSide := by
  unfold State.chooseSide State.nextSide; split <;> rfl
@[simp] theorem chooseSide_side (s : State) (X : Side) : s.chooseSide.side X = s.side X := by
  unfold State.chooseSide; split <;> cases X <;> rfl
@[simp] theorem chooseSide_store (s : State) : s.chooseSide.store = s.store := by
  unfold State.chooseSide; split <;> rfl
@[simp] theorem chooseSide_storeExists (s : State) : s.chooseSide.storeExists = s.storeExists := by
  unfold State.chooseSide; split <;> rfl
@[simp] theorem chooseSide_storeGen (s : State) : s.chooseSide.storeGen = s.storeGen := by
  unfold State.chooseSide; split <;> rfl
@[simp] theorem chooseSide_lockOwner (s : State) : s.chooseSide.lockOwner = s.lockOwner := by
  unfold State.chooseSide; split <;> rfl
@[simp] theorem chooseSide_c2p (s : State) : s.chooseSide.c2p = s.c2p := by unfold State.chooseSide; split <;> rfl
@[simp] theorem chooseSide_p2c (s : State) : s.chooseSide.p2c = s.p2c := by unfold State.chooseSide; split <;> rfl

/-! createStore and destroyStore -/
@[simp] theorem createStore_storeExists (s : State) : s.createStore.storeExists = true := rfl
@[simp] theorem createStore_storeGen (s : State) : s.createStore.storeGen = s.storeGen + 1 := rfl
@[simp] theorem createStore_store (s : State) : s.createStore.store = [] := rfl
@[simp] theorem createStore_cfg (s : State) : s.createStore.cfg = s.cfg := rfl
@[simp] theorem createStore_turn (s : State) : s.createStore.turn = s.turn := rfl
@[simp] theorem createStore_side (s : State) (X : Side) : s.createStore.side X = s.side X := by cases X <;> rfl
@[simp] theorem createStore_lockOwner (s : State) : s.createStore.lockOwner = s.lockOwner := rfl
@[simp] theorem createStore_c2p (s : State) : s.createStore.c2p = s.c2p := rfl
@[simp] theorem createStore_p2c (s : State) : s.createStore.p2c = s.p2c := rfl
@[simp] theorem destroyStore_storeExists (s : State) : s.destroyStore.storeExists = false := rfl
@[simp] theorem destroyStore_store (s : State) : s.destroyStore.store = [] := rfl
@[simp] theorem destroyStore_storeGen (s : State) : s.destroyStore.storeGen = s.storeGen := rfl
@[simp] theorem destroyStore_cfg (s : State) : s.destroyStore.cfg = s.cfg := rfl
@[simp] theorem destroyStore_turn (s : State) : s.destroyStore.turn = s.turn := rfl
@[simp] theorem destroyStore_side (s : State) (X : Side) : s.destroyStore.side X = s.side X := by cases X <;> rfl
@[simp] theorem destroyStore_lockOwner (s : State) : s.destroyStore.lockOwner = s.lockOwner := rfl
@[simp] theorem destroyStore_c2p (s : State) : s.destroyStore.c2p = s.c2p := rfl
@[simp] theorem destroyStore_p2c (s : State) : s.destroyStore.p2c = s.p2c := rfl

end Sys2Proof.Machine
end

