-- ==== Sys2Proof/Laws/Ops.lean ====
section
/-! SUPPORT. For each shared operation, once, everything it can do; and that the operations over the whole store keep its
canonical form. -/

namespace Sys2Proof.Machine

/-! When a meaning runs -/

theorem whenEnabled_cases (s : State) (i : Instr) (r : Result) :
    (enabled s i = true ∧ whenEnabled s i r = r) ∨ (enabled s i = false ∧ whenEnabled s i r = .next s) := by
  cases h : enabled s i
  · exact Or.inr ⟨rfl, by simp [whenEnabled, h]⟩
  · exact Or.inl ⟨rfl, by simp [whenEnabled, h]⟩

theorem whenEnabled_of_enabled {s : State} {i : Instr} (h : enabled s i = true) (r : Result) : whenEnabled s i r = r := by
  simp [whenEnabled, h]

theorem needStore_eq_next (s u t : State) : needStore s u = .next t ↔ s.storeExists = true ∧ u = t := by
  unfold needStore
  split_ifs with h <;> simp [h]

theorem atOwnSlot_eq_next (s t : State) (k : Slot → Result) :
    atOwnSlot s k = .next t ↔ s.storeExists = true ∧ ∃ i, Slot.ofByte s.me.slot = some i ∧ k i = .next t := by
  unfold atOwnSlot
  split_ifs with h
  · cases hs : Slot.ofByte s.me.slot <;> simp [h]
  · simp [h]

theorem onUpdate_cases (s : State) (k : Word → Byte → Byte → Result) :
    (∃ e d c, s.me.cmd = .update e d c ∧ onUpdate s k = k e d c) ∨
    (s.me.cmd.isUpdate = false ∧ onUpdate s k = .next s) := by
  cases h : s.me.cmd <;> simp [onUpdate, h, Cmd.isUpdate]

theorem ofByte_eq_some (b : Byte) (i : Slot) : Slot.ofByte b = some i ↔ b = i.code := by
  unfold Slot.ofByte
  cases i <;> simp only [Slot.code] <;> split_ifs <;> simp_all

@[simp] theorem ofByte_code (i : Slot) : Slot.ofByte i.code = some i := (ofByte_eq_some _ _).2 rfl

/-! The FIFOs (R122, R123) -/

theorem push_cases (q : Fifo) (depth : Nat) (f : List Byte) :
    ((q.closed = true ∨ q.room depth < f.length) ∧ q.push depth f = q) ∨
    (q.closed = false ∧ f.length ≤ q.room depth ∧ q.push depth f = { q with bytes := q.bytes ++ f }) := by
  unfold Fifo.push
  split_ifs with h
  · exact Or.inl ⟨h, rfl⟩
  · simp only [not_or, Bool.not_eq_true] at h
    exact Or.inr ⟨h.1, by omega, rfl⟩

theorem push_closed (q : Fifo) (depth : Nat) (f : List Byte) : (q.push depth f).closed = q.closed := by
  obtain ⟨_, h⟩ | ⟨_, _, h⟩ := push_cases q depth f <;> rw [h]

/-! Draws and the turn (log 1, 2) -/

theorem afterDraw_cases (s : State) :
    (∃ b bs, s.oracle = b :: bs ∧ s.drawn = b ∧ s.afterDraw = { s with oracle := bs }) ∨
    (s.oracle = [] ∧ s.drawn = Config.draw s.draws ∧ s.afterDraw = { s with draws := s.draws + 1 }) := by
  cases h : s.oracle <;> simp [State.drawn, State.afterDraw, h]

theorem chooseSide_cases (s : State) :
    (∃ X rest, s.schedule = X :: rest ∧ s.chooseSide = { s with turn := X, schedule := rest }) ∨
    (s.schedule = [] ∧ s.chooseSide = { s with turn := s.nextSide, draws := s.draws + 1 }) := by
  cases h : s.schedule <;> simp [State.chooseSide, h]

/-! STEP's five endings (R91) -/

theorem protocolStep_malformed {m : Memory} {i : Slot} (h : malformed m i = true) (T : Half) (e : Word) (d c : Byte) :
    protocolStep T m i e d c = stageMalformed m d c := by
  simp [protocolStep, h]

theorem protocolStep_deliver {m : Memory} {i : Slot} (h : malformed m i = false) (hp : m.phase i = Phase.complete)
    (T : Half) (e : Word) (d c : Byte) : protocolStep T m i e d c = stageDeliver m i := by
  unfold protocolStep
  rw [if_neg (by simp [h]), if_pos hp]

theorem protocolStep_absent {m : Memory} {i : Slot} (h : malformed m i = false) (hp : m.phase i ≠ Phase.complete)
    (ha : m.alive i.peer = 0x00) (T : Half) (e : Word) (d c : Byte) :
    protocolStep T m i e d c = stageAbsent m i d c := by
  unfold protocolStep
  rw [if_neg (by simp [h]), if_neg hp, if_pos ha]

/-- Where W1 to W3 do not end the step, the peer is alive. -/
theorem peerAlive_of_not_malformed {m : Memory} {i : Slot} (h : malformed m i = false) (ha : m.alive i.peer ≠ 0x00) :
    m.alive i.peer = 0x01 := by
  simp only [malformed, Bool.or_eq_false_iff, decide_eq_false_iff_not, not_and, not_not] at h
  exact h.1.1.2 ha

/-- Every ending of STEP, with what led to it (R91). -/
theorem protocolStep_cases (T : Half) (m : Memory) (i : Slot) (e : Word) (d c : Byte) :
    (malformed m i = true ∧ protocolStep T m i e d c = stageMalformed m d c) ∨
    (malformed m i = false ∧ m.phase i = Phase.complete ∧ protocolStep T m i e d c = stageDeliver m i) ∨
    (malformed m i = false ∧ m.phase i ≠ Phase.complete ∧ m.alive i.peer = 0x00 ∧
      protocolStep T m i e d c = stageAbsent m i d c) ∨
    (malformed m i = false ∧ m.phase i ≠ Phase.complete ∧ m.alive i.peer = 0x01 ∧
      (stageRecover m i).phase i = Phase.transferring ∧ (stageRecover m i).phase i.peer = Phase.transferring ∧
      protocolStep T m i e d c = stageTransfer T (stageRecover m i) i e d c) ∨
    (malformed m i = false ∧ m.phase i ≠ Phase.complete ∧ m.alive i.peer = 0x01 ∧
      (stageRecover m i).phase i = Phase.transferring ∧ (stageRecover m i).phase i.peer ≠ Phase.transferring ∧
      protocolStep T m i e d c = stageLatch (abandon (stageRecover m i) i) i d c) ∨
    (malformed m i = false ∧ m.phase i ≠ Phase.complete ∧ m.alive i.peer = 0x01 ∧
      (stageRecover m i).phase i ≠ Phase.transferring ∧
      protocolStep T m i e d c = stageLatch (stageRecover m i) i d c) := by
  cases hm : malformed m i with
  | true => exact Or.inl ⟨rfl, protocolStep_malformed hm T e d c⟩
  | false =>
    by_cases hc : m.phase i = Phase.complete
    · exact Or.inr (Or.inl ⟨rfl, hc, protocolStep_deliver hm hc T e d c⟩)
    by_cases ha : m.alive i.peer = 0x00
    · exact Or.inr (Or.inr (Or.inl ⟨rfl, hc, ha, protocolStep_absent hm hc ha T e d c⟩))
    have hp := peerAlive_of_not_malformed hm ha
    have hstep : protocolStep T m i e d c =
        if (stageRecover m i).phase i = Phase.transferring then
          if (stageRecover m i).phase i.peer = Phase.transferring then stageTransfer T (stageRecover m i) i e d c
          else stageLatch (abandon (stageRecover m i) i) i d c
        else stageLatch (stageRecover m i) i d c := by
      unfold protocolStep
      rw [if_neg (by simp [hm]), if_neg hc, if_neg ha]
    by_cases ht : (stageRecover m i).phase i = Phase.transferring
    · by_cases hq : (stageRecover m i).phase i.peer = Phase.transferring
      · exact Or.inr (Or.inr (Or.inr (Or.inl ⟨rfl, hc, hp, ht, hq, by rw [hstep, if_pos ht, if_pos hq]⟩)))
      · exact Or.inr (Or.inr (Or.inr (Or.inr (Or.inl ⟨rfl, hc, hp, ht, hq, by rw [hstep, if_pos ht, if_neg hq]⟩))))
    · exact Or.inr (Or.inr (Or.inr (Or.inr (Or.inr ⟨rfl, hc, hp, ht, by rw [hstep, if_neg ht]⟩))))

/-! The canonical form -/

theorem wf_claim (m : Memory) (i : Slot) (h : m.wf = true) : (claim m i).wf = true :=
  wf_setPhase _ _ _ (wf_setControl _ _ _ (wf_setData _ _ _ (wf_setAlive _ _ _ h)))

theorem wf_leaveSlot (m : Memory) (i : Slot) (h : m.wf = true) : (leaveSlot m i).wf = true := by
  unfold leaveSlot
  split_ifs
  · exact wf_setPhase _ _ _ (wf_setAlive _ _ _ (wf_setCounter _ _ h))
  · exact wf_setPhase _ _ _ (wf_setAlive _ _ _ h)

theorem wf_stageRecover (m : Memory) (i : Slot) (h : m.wf = true) : (stageRecover m i).wf = true := by
  unfold stageRecover
  split_ifs
  · exact wf_setPhase _ _ _ h
  · exact h

theorem wf_abandon (m : Memory) (i : Slot) (h : m.wf = true) : (abandon m i).wf = true :=
  wf_setCounter _ _ (wf_setPhase _ _ _ h)

theorem wf_exchange (m : Memory) (h : m.wf = true) : (exchange m).wf = true :=
  wf_setCounter _ _ (wf_setPhase _ _ _ (wf_setPhase _ _ _ (wf_setControl _ _ _ (wf_setControl _ _ _
    (wf_setData _ _ _ (wf_setData _ _ _ h))))))

theorem wf_advance (m : Memory) (i : Slot) (e : Word) (h : m.wf = true) : (advance m i e).wf = true := by
  unfold advance
  split_ifs
  · exact wf_setCounter _ _ h
  · exact h

theorem wf_latch (m : Memory) (i : Slot) (d c : Byte) (h : m.wf = true) : (latch m i d c).wf = true :=
  wf_setPhase _ _ _ (wf_setControl _ _ _ (wf_setData _ _ _ h))

/-! What a claimed slot and a left slot read (R86, R88, R126) -/

theorem read_claim (m : Memory) (i : Slot) (h : m.wf = true) (a : Nat) :
    (claim m i).read a =
      if a = i.base + 0 then 0x01 else if i.base < a ∧ a < i.base + 4 then 0x00 else m.read a := by
  have w1 := wf_setAlive m i 0x01 h
  have w2 := wf_setData _ i 0x00 w1
  have w3 := wf_setControl _ i 0x00 w2
  unfold claim
  by_cases h3 : a = i.base + 3
  · rw [h3, Memory.setPhase, read_write_same _ _ _ w3, if_neg (by omega), if_pos (by omega)]
  rw [read_setPhase_ne _ w3 _ _ _ h3]
  by_cases h2 : a = i.base + 2
  · rw [h2, Memory.setControl, read_write_same _ _ _ w2, if_neg (by omega), if_pos (by omega)]
  rw [read_setControl_ne _ w2 _ _ _ h2]
  by_cases h1 : a = i.base + 1
  · rw [h1, Memory.setData, read_write_same _ _ _ w1, if_neg (by omega), if_pos (by omega)]
  rw [read_setData_ne _ w1 _ _ _ h1]
  by_cases h0 : a = i.base + 0
  · rw [h0, Memory.setAlive, read_write_same _ _ _ h, if_pos rfl]
  · rw [read_setAlive_ne _ h _ _ _ h0, if_neg h0, if_neg (by omega)]

/-- The two bytes a left slot loses; COUNTER's two are in `counter_leaveSlot`, and no other byte changes. -/
theorem read_leaveSlot (m : Memory) (i : Slot) (h : m.wf = true) (a : Nat)
    (hc : m.phase i = Phase.transferring → a ≠ 0x0C ∧ a ≠ 0x0D) :
    (leaveSlot m i).read a = if a = i.base + 0 ∨ a = i.base + 3 then 0x00 else m.read a := by
  have key : ∀ n : Memory, n.wf = true → n.read a = m.read a →
      ((n.setAlive i 0x00).setPhase i Phase.disconnected).read a =
        if a = i.base + 0 ∨ a = i.base + 3 then 0x00 else m.read a := by
    intro n hn hr
    have w := wf_setAlive n i 0x00 hn
    by_cases h3 : a = i.base + 3
    · rw [h3, Memory.setPhase, read_write_same _ _ _ w, if_pos (Or.inr rfl)]
    rw [read_setPhase_ne _ w _ _ _ h3]
    by_cases h0 : a = i.base + 0
    · rw [h0, Memory.setAlive, read_write_same _ _ _ hn, if_pos (Or.inl rfl)]
    · rw [read_setAlive_ne _ hn _ _ _ h0, if_neg (by omega), hr]
  unfold leaveSlot
  by_cases ht : m.phase i = Phase.transferring
  · rw [if_pos ht]
    exact key _ (wf_setCounter _ _ h) (read_setCounter_ne m h 0 a (hc ht).1 (hc ht).2)
  · rw [if_neg ht]
    exact key _ h rfl

theorem counter_leaveSlot (m : Memory) (i : Slot) (h : m.wf = true) :
    (leaveSlot m i).counter = if m.phase i = Phase.transferring then 0 else m.counter := by
  unfold leaveSlot
  split_ifs
  · rw [counter_setPhase _ (wf_setAlive _ _ _ (wf_setCounter _ _ h)), counter_setAlive _ (wf_setCounter _ _ h),
      counter_setCounter _ h]
  · rw [counter_setPhase _ (wf_setAlive _ _ _ h), counter_setAlive _ h]

/-! SERVICE (R126) -/

theorem service_cases (s : State) :
    (headC2P s.c2p.bytes = none ∧ ¬ (s.c2p.closed = true ∧ s.store.alive .one = 0x01) ∧ service s = s) ∨
    (headC2P s.c2p.bytes = none ∧ s.c2p.closed = true ∧ s.store.alive .one = 0x01 ∧
      service s = { s with store := leaveSlot s.store .one }) ∨
    (∃ f rest, headC2P s.c2p.bytes = some (f, rest) ∧ s.p2c.room s.cfg.fifoDepth < serviceNeed f ∧ service s = s) ∨
    (∃ f rest, headC2P s.c2p.bytes = some (f, rest) ∧ serviceNeed f ≤ s.p2c.room s.cfg.fifoDepth ∧
      service s = serviceFrame (s.popC2P rest) f) := by
  unfold service
  cases hh : headC2P s.c2p.bytes with
  | none =>
    by_cases hc : s.c2p.closed = true ∧ s.store.alive .one = 0x01
    · exact Or.inr (Or.inl ⟨rfl, hc.1, hc.2, if_pos hc⟩)
    · exact Or.inl ⟨rfl, hc, if_neg hc⟩
  | some q =>
    obtain ⟨f, rest⟩ := q
    by_cases hr : s.p2c.room s.cfg.fifoDepth < serviceNeed f
    · exact Or.inr (Or.inr (Or.inl ⟨f, rest, rfl, hr, if_pos hr⟩))
    · exact Or.inr (Or.inr (Or.inr ⟨f, rest, rfl, by omega, if_neg hr⟩))

/-! The phases after each stage -/

theorem phase_stageRecover (m : Memory) (i j : Slot) (h : m.wf = true) :
    (stageRecover m i).phase j =
      if j = i ∧ m.phase i = Phase.disconnected then Phase.ready else m.phase j := by
  unfold stageRecover
  by_cases hd : m.phase i = Phase.disconnected
  · rw [if_pos hd, phase_setPhase_eq m h]
    by_cases hj : j = i
    · rw [if_pos hj, if_pos ⟨hj, hd⟩]
    · rw [if_neg hj, if_neg (fun hh => hj hh.1)]
  · rw [if_neg hd, if_neg (fun hh => hd hh.2)]

theorem phase_latch (m : Memory) (i j : Slot) (d c : Byte) (h : m.wf = true) :
    (latch m i d c).phase j =
      if j = i then (if requests c && isMaster c then Phase.pending else Phase.ready) else m.phase j := by
  have w1 := wf_setData m i d h
  have w2 := wf_setControl _ i c w1
  unfold latch
  rw [phase_setPhase_eq _ w2]
  split_ifs with hj <;> simp only [phase_setControl _ w1, phase_setData _ h]

theorem control_latch (m : Memory) (i j : Slot) (d c : Byte) (h : m.wf = true) :
    (latch m i d c).control j = if j = i then c else m.control j := by
  have w1 := wf_setData m i d h
  have w2 := wf_setControl _ i c w1
  unfold latch
  rw [control_setPhase _ w2, control_setControl_eq _ w1, control_setData _ h]

end Sys2Proof.Machine
end

