-- ==== Sys2Proof/Laws/PerInstr.lean ====
section
/-! SUPPORT. A family of facts about every instruction as syntax: the length of its encoding (R66, R77). -/

namespace Sys2Proof.Laws.EncodedLength

/-- A µ-op is one byte (R77); a frame has the length its opcode byte gives (R66). -/
def Statement (i : Instr) : Prop :=
  if i.kind = .uop then (encode i).length = 1 ∧ frameLength ((encode i).headD 0x00) = none
  else frameLength ((encode i).headD 0x00) = some (encode i).length

theorem attach : Statement .attach := by simp [Statement, Instr.kind, encode, frameLength]
theorem detach : Statement .detach := by simp [Statement, Instr.kind, encode, frameLength]
theorem query : Statement .query := by simp [Statement, Instr.kind, encode, frameLength]
theorem update (e : Word) (d c : Byte) : Statement (.update e d c) := by
  simp [Statement, Instr.kind, encode, frameLength]
theorem attachRsp (st slot : Byte) : Statement (.attachRsp st slot) := by
  simp [Statement, Instr.kind, encode, frameLength]
theorem detachRsp (st : Byte) : Statement (.detachRsp st) := by simp [Statement, Instr.kind, encode, frameLength]
theorem queryRsp (disc : Bool) : Statement (.queryRsp disc) := by simp [Statement, Instr.kind, encode, frameLength]
theorem updateRsp (nd nc : Byte) (irq disc : Bool) (st : Byte) : Statement (.updateRsp nd nc irq disc st) := by
  simp [Statement, Instr.kind, encode, frameLength]
theorem errorRsp (st : Byte) : Statement (.errorRsp st) := by simp [Statement, Instr.kind, encode, frameLength]
theorem createOrOpen : Statement .createOrOpen := by simp [Statement, Instr.kind, encode, frameLength]
theorem initRegion : Statement .initRegion := by simp [Statement, Instr.kind, encode, frameLength]
theorem publish : Statement .publish := by simp [Statement, Instr.kind, encode, frameLength]
theorem pollInit : Statement .pollInit := by simp [Statement, Instr.kind, encode, frameLength]
theorem claimSlot : Statement .claimSlot := by simp [Statement, Instr.kind, encode, frameLength]
theorem detachExec : Statement .detachExec := by simp [Statement, Instr.kind, encode, frameLength]
theorem lockAcquire : Statement .lockAcquire := by simp [Statement, Instr.kind, encode, frameLength]
theorem commit : Statement .commit := by simp [Statement, Instr.kind, encode, frameLength]
theorem unlinkedExec : Statement .unlinkedExec := by simp [Statement, Instr.kind, encode, frameLength]
theorem queryExec : Statement .queryExec := by simp [Statement, Instr.kind, encode, frameLength]
theorem pOpen : Statement .pOpen := by simp [Statement, Instr.kind, encode, frameLength]
theorem pUpdate : Statement .pUpdate := by simp [Statement, Instr.kind, encode, frameLength]
theorem pClose : Statement .pClose := by simp [Statement, Instr.kind, encode, frameLength]
theorem cSendAttach : Statement .cSendAttach := by simp [Statement, Instr.kind, encode, frameLength]
theorem cRecvAttach : Statement .cRecvAttach := by simp [Statement, Instr.kind, encode, frameLength]
theorem cUpdate : Statement .cUpdate := by simp [Statement, Instr.kind, encode, frameLength]
theorem cClose : Statement .cClose := by simp [Statement, Instr.kind, encode, frameLength]
theorem trivialExec : Statement .trivialExec := by simp [Statement, Instr.kind, encode, frameLength]
theorem illegalExec : Statement .illegalExec := by simp [Statement, Instr.kind, encode, frameLength]

end Sys2Proof.Laws.EncodedLength
end

