-- ==== Sys2Proof/WellFormed.lean ====
section
/-! DEFINITION. Which instructions are well formed: the response frames the block may produce (R71 to R75, R136).
Every request operand value is legal (R76). -/

namespace Sys2Proof

/-- R136: status values 0x08 to 0xFF are reserved. -/
def statusDefined (st : Byte) : Bool :=
  decide (st.toNat ≤ 0x07)

/-- R71: the slot byte is 0x00 or 0x01 only when the status is OK, and 0xFF otherwise (an UNLINKED side
answers OK with 0xFF). -/
def attachSlotDefined (st slot : Byte) : Bool :=
  decide (slot = 0xFF ∨ (st = Status.ok ∧ slot.toNat ≤ 1))

/-- The well-formed instructions. -/
def Instr.wellFormed : Instr → Bool
  | .attachRsp st slot => statusDefined st && attachSlotDefined st slot
  | .detachRsp st => statusDefined st
  | .updateRsp _ _ _ _ st => statusDefined st
  | .errorRsp st => decide (st = Status.illegalCommand)
  | .attach => true
  | .detach => true
  | .query => true
  | .update _ _ _ => true
  | .queryRsp _ => true
  | .createOrOpen => true
  | .initRegion => true
  | .publish => true
  | .pollInit => true
  | .claimSlot => true
  | .detachExec => true
  | .lockAcquire => true
  | .commit => true
  | .unlinkedExec => true
  | .queryExec => true
  | .pOpen => true
  | .pUpdate => true
  | .pClose => true
  | .cSendAttach => true
  | .cRecvAttach => true
  | .cUpdate => true
  | .cClose => true
  | .trivialExec => true
  | .illegalExec => true

end Sys2Proof
end

