-- ==== Sys2Proof/Tests/Slice0.lean ====
section
/-! SUPPORT. Tests: words written out from the spec's encodings, the refused ill-formed terms, vectors of
95_test_vectors.md (named V-… in the docstrings), and for every statement with hypotheses a state that meets them
(`test_witness_…`). -/

namespace Sys2Proof.Tests

open Sys2Proof Sys2Proof.Machine

/-! Encodings, bit by bit from R66 to R77 -/

/-- R67 to R70: the requests (V-E1 to V-E5, V-E8). -/
theorem test_decode_requests :
    decode [0b00000001] = .ok .attach ∧ decode [0b00000100] = .ok .detach ∧ decode [0b00000101] = .ok .query ∧
    decode [0b00010000, 0x04, 0x00, 0x00, 0x00, 0xAB, 0x81] = .ok (.update 4 0xAB 0x81) ∧
    decode [0x10, 0x78, 0x56, 0x34, 0x12, 0x00, 0x00] = .ok (.update 0x12345678 0x00 0x00) ∧
    decode [0x10, 0x00, 0x01, 0x00, 0x00, 0x3C, 0x81] = .ok (.update 256 0x3C 0x81) := by decide

/-- R71 to R75: the responses (V-E9 to V-E12). -/
theorem test_decode_responses :
    decode [0b10000001, 0x00, 0x01] = .ok (.attachRsp 0x00 0x01) ∧
    decode [0b10000100, 0x00] = .ok (.detachRsp 0x00) ∧
    decode [0b10000101, 0x01] = .ok (.queryRsp true) ∧ decode [0x85, 0x00] = .ok (.queryRsp false) ∧
    decode [0b10010000, 0xAB, 0x00, 0b00000001, 0x00] = .ok (.updateRsp 0xAB 0x00 true false 0x00) ∧
    decode [0x90, 0xAB, 0x81, 0b00000010, 0x03] = .ok (.updateRsp 0xAB 0x81 false true 0x03) ∧
    decode [0b11111111, 0x07] = .ok (.errorRsp 0x07) := by decide

/-- R77: the trace codes. -/
theorem test_decode_uops :
    [0x40, 0x41, 0x42, 0x43, 0x44, 0x45, 0x46, 0x47, 0x48, 0x49, 0x4A, 0x4B, 0x4C, 0x4D, 0x4E, 0x4F, 0x50, 0x51,
      0x52].map (fun code => decode [code]) =
    [.ok .createOrOpen, .ok .initRegion, .ok .publish, .ok .pollInit, .ok .claimSlot, .ok .detachExec,
      .ok .lockAcquire, .ok .commit, .ok .unlinkedExec, .ok .queryExec, .ok .pOpen, .ok .pUpdate, .ok .pClose,
      .ok .cSendAttach, .ok .cRecvAttach, .ok .cUpdate, .ok .cClose, .ok .trivialExec, .ok .illegalExec] := by
  decide

/-- R79 (V-E14 to V-E20) and the codes of R77 that name nothing. -/
theorem test_decode_refuses :
    decodeRequest [0x22] = .error (.unknownOpcode 0x22) ∧ decodeRequest [0x00] = .error (.unknownOpcode 0x00) ∧
    decodeRequest [0x81, 0x00, 0x00] = .error .responseAsRequest ∧
    decodeRequest [0xFF, 0x07] = .error .responseAsRequest ∧ decodeRequest [0x10, 0x04, 0x00] = .error .tooShort ∧
    decodeRequest [0x01, 0x00] = .error .tooLong ∧ decodeRequest [0x05, 0x05] = .error .tooLong ∧
    decodeRequest [] = .error .empty ∧ decodeRequest [0x40] = .error (.unknownOpcode 0x40) ∧
    decode [0x53] = .error (.unknownOpcode 0x53) ∧ decode [0x3F] = .error (.unknownOpcode 0x3F) := by decide

/-- R73, R74: bits that are always 0. -/
theorem test_decode_refuses_reservedBits :
    decode [0x85, 0x02] = .error .reservedBits ∧ decode [0x90, 0x00, 0x00, 0x04, 0x00] = .error .reservedBits := by
  decide

/-- The opcode table's numbering: the first byte is bits 7:0; operand bytes without table bits are 0. -/
theorem test_decodeTableWord :
    decodeTableWord 56 0x81AB0000000410 = some (.update 4 0xAB 0x81) ∧ decodeTableWord 8 0x47 = some .commit ∧
    decodeTableWord 24 0x010081 = some (.attachRsp 0x00 0x01) ∧ decodeTableWord 8 0x10 = some (.update 0 0 0) ∧
    decodeTableWord 8 0x22 = none := by decide

/-! The checks of WellFormed -/

/-- R136: a reserved status. -/
theorem test_illFormed_attachRsp_status : (Instr.attachRsp 0x08 0xFF).wellFormed = false := by decide
/-- R71: a slot with a status other than OK. -/
theorem test_illFormed_attachRsp_slot : (Instr.attachRsp 0x01 0x00).wellFormed = false := by decide
/-- R71: a slot other than 0x00, 0x01 and 0xFF. -/
theorem test_illFormed_attachRsp_slotRange : (Instr.attachRsp 0x00 0x02).wellFormed = false := by decide
/-- R136. -/
theorem test_illFormed_detachRsp : (Instr.detachRsp 0x08).wellFormed = false := by decide
/-- R136. -/
theorem test_illFormed_updateRsp : (Instr.updateRsp 0x00 0x00 false false 0xFF).wellFormed = false := by decide
/-- R75. -/
theorem test_illFormed_errorRsp : (Instr.errorRsp 0x00).wellFormed = false := by decide

/-! Small states, by the conventions of 95_test_vectors.md section 0 -/

/-- Threshold 8, poll limit 3, FIFO depth 8. -/
def vectorParams (a b : Mode) (spurious : Bool) : Params := ⟨a, b, 8, 3, 8, spurious, "link"⟩

/-- The launch state with side A to move; the next draw gives `draw`. -/
def launched (a b : Mode) (draw : Bool) : State :=
  { State.launch (vectorParams a b false) with schedule := [.A], oracle := [draw] }

/-- The store holding these 16 bytes. -/
def store16 (bs : List Byte) : Memory := ((List.range 16).zip bs).filter (fun x => x.2 ≠ 0x00)

/-- A store with INIT set, from its two slots and COUNTER's low byte. -/
def slots (slot0 slot1 : List Byte) (counter : Byte) : Memory :=
  store16 ([0x01, 0x00, 0x00, 0x00] ++ slot0 ++ slot1 ++ [counter, 0x00, 0x00, 0x00])

/-- A local state with this L.SEQ and command. -/
def local_ (seq : Seq) (cmd : Cmd) (slot : Byte) : SideState :=
  { SideState.launch with seq := seq, cmd := cmd, slot := slot, gen := 1, disc := false }

/-- Side A in a state of its sequencer, over the store `m`, in the modes `a`, `b`. -/
def atA (a b : Mode) (m : Memory) (seq : Seq) (cmd : Cmd) : State :=
  { launched a b false with
    storeExists := true, storeGen := 1, store := m, sideA := local_ seq cmd 0x00,
    sideB := local_ .attached .none 0x01 }

/-- The store while only A is attached. -/
def lone : Memory := slots [0x01, 0x00, 0x00, 0x00] [0x00, 0x00, 0x00, 0x00] 0x00

/-- The store after both attached. -/
def fresh : Memory := slots [0x01, 0x00, 0x00, 0x00] [0x01, 0x00, 0x00, 0x00] 0x00

/-- The UPDATE of most vectors. -/
def tick4 : Cmd := .update 4 0xAB 0x81

/-- The response frame a meaning left in the acting side's port. -/
def answer (r : Result) : Option (List Byte) :=
  match r with
  | .next t => t.me.host.response
  | .fault _ => none
  | .refused _ => none

/-- The store a meaning left. -/
def storeOf (r : Result) : Option Memory :=
  match r with
  | .next t => some t.store
  | .fault _ => none
  | .refused _ => none

/-- The acting side's local state that a meaning left. -/
def localOf (r : Result) : Option SideState :=
  match r with
  | .next t => some t.me
  | .fault _ => none
  | .refused _ => none

/-! STEP (V-S…): the whole result -/

/-- V-S1: a malformed peer. -/
theorem test_step_malformed :
    let m := slots [0x01, 0x12, 0x00, 0x01] [0x01, 0x34, 0x80, 0x07] 0x00
    protocolStep 8 m .zero 4 0x12 0x00 = ⟨m, 0x12, 0x00, false, 0x04, none, true⟩ := by decide

/-- V-S5: delivery outranks a departed peer. -/
theorem test_step_delivery :
    protocolStep 8 (slots [0x01, 0xCD, 0x01, 0x04] [0x00, 0xAB, 0x00, 0x00] 0x00) .zero 4 0xAB 0x81 =
      ⟨slots [0x01, 0xCD, 0x01, 0x01] [0x00, 0xAB, 0x00, 0x00] 0x00, 0xCD, 0x01, true, 0x00, some false, false⟩ := by
  decide

/-- V-S7: the peer is absent in mid-transfer. -/
theorem test_step_peerAbsent :
    protocolStep 8 (slots [0x01, 0xAB, 0x81, 0x03] [0x00, 0xCD, 0x80, 0x00] 0x04) .zero 4 0xAB 0x81 =
      ⟨slots [0x01, 0xAB, 0x81, 0x00] [0x00, 0xCD, 0x80, 0x00] 0x00, 0xAB, 0x81, false, 0x03, some true, false⟩ := by
  decide

/-- V-S12: a slave joins a PENDING master. -/
theorem test_step_start :
    protocolStep 8 (slots [0x01, 0xAB, 0x81, 0x02] [0x01, 0x00, 0x00, 0x01] 0x00) .one 4 0xCD 0x80 =
      ⟨slots [0x01, 0xAB, 0x81, 0x03] [0x01, 0xCD, 0x80, 0x03] 0x00, 0xCD, 0x80, false, 0x00, some false, false⟩ := by
  decide

/-- V-S11: two slaves never start. -/
theorem test_step_twoSlaves :
    protocolStep 8 (slots [0x01, 0xAB, 0x80, 0x01] [0x01, 0x00, 0x00, 0x01] 0x00) .one 4 0xCD 0x80 =
      ⟨slots [0x01, 0xAB, 0x80, 0x01] [0x01, 0xCD, 0x80, 0x01] 0x00, 0xCD, 0x80, false, 0x00, some false, false⟩ := by
  decide

/-- V-S15: a master counts, and nothing is latched. -/
theorem test_step_counts :
    protocolStep 8 (slots [0x01, 0xAB, 0x81, 0x03] [0x01, 0xCD, 0x80, 0x03] 0x00) .zero 4 0x55 0x81 =
      ⟨slots [0x01, 0xAB, 0x81, 0x03] [0x01, 0xCD, 0x80, 0x03] 0x04, 0x55, 0x81, false, 0x00, some false, false⟩ := by
  decide

/-- V-S27: a slave never counts. -/
theorem test_step_slaveDoesNotCount :
    (protocolStep 8 (slots [0x01, 0xAB, 0x81, 0x03] [0x01, 0xCD, 0x80, 0x03] 0x07) .one 100 0xCD 0x80).store =
      slots [0x01, 0xAB, 0x81, 0x03] [0x01, 0xCD, 0x80, 0x03] 0x07 := by decide

/-- V-S29: the exchange carries control bits 6 to 1. -/
theorem test_step_exchange :
    protocolStep 8 (slots [0x01, 0x3C, 0xFF, 0x03] [0x01, 0xC3, 0xFE, 0x03] 0x07) .zero 1 0x3C 0xFF =
      ⟨slots [0x01, 0xC3, 0x7F, 0x04] [0x01, 0x3C, 0x7E, 0x04] 0x00, 0x3C, 0xFF, false, 0x00, some false, false⟩ := by
  decide

/-- V-S18: COUNTER saturates at 0xFFFF, which reaches the threshold 0xFFFF. -/
theorem test_step_saturates :
    (protocolStep 0xFFFF (slots [0x01, 0xAB, 0x81, 0x03] [0x01, 0xCD, 0x80, 0x03] 0x05) .zero 0xFFFFFFFF 0xAB
      0x81).store = slots [0x01, 0xCD, 0x01, 0x04] [0x01, 0xAB, 0x00, 0x04] 0x00 := by decide

/-- V-S20: an abandoned transfer is latched again in the same step. -/
theorem test_step_abandoned :
    (protocolStep 8 (slots [0x01, 0xAB, 0x81, 0x03] [0x01, 0x00, 0x00, 0x00] 0x04) .zero 4 0xAB 0x81).store =
      slots [0x01, 0xAB, 0x81, 0x02] [0x01, 0x00, 0x00, 0x00] 0x00 := by decide

/-- V-E13: COUNTER is little-endian. -/
theorem test_counter_littleEndian :
    (store16 [0, 0, 0, 0, 0, 0, 0, 0, 0, 0, 0, 0, 0x34, 0x12, 0, 0]).counter = 0x1234 := by decide

/-! The µ-ops of SHM mode (V-T…, V-A…), each on a state that meets the hypotheses of its result's statement -/

/-- V-T1, V-T2, V-T5, and the hypotheses of CreateOrOpenResult with those of its three clauses. -/
theorem test_witness_CreateOrOpenResult :
    let bare := fun draw => { launched .shm .shm draw with sideA := local_ .detached .attach 0x00 }
    let opened := { atA .shm .shm fresh .detached .attach with oracle := [false] }
    ((bare true).mode = .shm ∧ (bare true).me.cmd = .attach ∧ (bare true).me.seq = .detached) ∧
    (bare true).drawn = true ∧ answer (exec .createOrOpen (bare true)) = some [0x81, 0x01, 0xFF] ∧
    ((bare false).drawn = false ∧ (bare false).storeExists = false) ∧
    storeOf (exec .createOrOpen (bare false)) = some [] ∧
    (localOf (exec .createOrOpen (bare false))).map (fun l => (l.seq, l.creator, l.gen)) = some (.created, true, 1) ∧
    (opened.mode = .shm ∧ opened.me.cmd = .attach ∧ opened.me.seq = .detached ∧ opened.drawn = false ∧
      opened.storeExists = true) ∧
    (localOf (exec .createOrOpen opened)).map (fun l => (l.seq, l.creator, l.gen)) = some (.joining, false, 1) := by
  decide

/-- V-T3, and the hypotheses of InitRegionResult. -/
theorem test_witness_InitRegionResult :
    let s := atA .shm .shm [] .created .attach
    (s.mode = .shm ∧ s.me.seq = .created ∧ s.storeExists = true ∧ s.store.wf = true) ∧
    storeOf (exec .initRegion s) = some (store16 [0, 0, 0, 0, 0x01, 0, 0, 0, 0, 0, 0, 0, 0, 0, 0, 0]) := by decide

/-- V-T4, and the hypotheses of PublishResult. -/
theorem test_witness_PublishResult :
    let s := atA .shm .shm (store16 [0, 0, 0, 0, 0x01]) .initialized .attach
    (s.mode = .shm ∧ s.me.seq = .initialized ∧ s.storeExists = true ∧ s.store.wf = true) ∧
    storeOf (exec .publish s) = some lone ∧ answer (exec .publish s) = some [0x81, 0x00, 0x00] := by decide

/-- V-T6, V-T9, V-T10, V-T12, and the hypotheses of PollInitResult with those of its clauses. -/
theorem test_witness_PollInitResult :
    let s := atA .shm .shm lone .joining .attach
    let gone := { s with storeExists := false, store := [] }
    let other := { s with storeGen := 2 }
    let unpublished := { s with store := store16 [0x02, 0, 0, 0, 0x01] }
    let last := { unpublished with sideA := { s.sideA with polls := 2 } }
    (s.mode = .shm ∧ s.me.seq = .joining ∧ s.storeExists = true ∧ s.storeGen = s.me.gen ∧
      s.readByte 0x00 = some 0x01) ∧
    (localOf (exec .pollInit s)).map (fun l => l.seq) = some .publishedSeen ∧
    (gone.storeExists = false ∧ other.storeGen ≠ other.me.gen) ∧
    answer (exec .pollInit gone) = some [0x81, 0x01, 0xFF] ∧ answer (exec .pollInit other) = some [0x81, 0x01, 0xFF] ∧
    (unpublished.readByte 0x00 ≠ some 0x01 ∧ unpublished.me.polls + 1 ≠ unpublished.cfg.initPollLimit) ∧
    (localOf (exec .pollInit unpublished)).map (fun l => (l.seq, l.polls)) = some (.joining, 1) ∧
    (last.readByte 0x00 ≠ some 0x01 ∧ last.me.polls + 1 = last.cfg.initPollLimit) ∧
    answer (exec .pollInit last) = some [0x81, 0x01, 0xFF] := by decide

/-- V-T7, V-T11, V-T13, V-T14, and the hypotheses of ClaimSlotResult with those of its clauses. -/
theorem test_witness_ClaimSlotResult :
    let s := atA .shm .shm lone .publishedSeen .attach
    let full := { s with store := fresh }
    let gone := { s with storeExists := false, store := [], lockOwner := some .B }
    let low := { s with store := slots [0x00, 0x12, 0x81, 0x00] [0x00, 0x00, 0x00, 0x00] 0x00 }
    (s.mode = .shm ∧ s.me.seq = .publishedSeen ∧ s.store.wf = true ∧ s.lockOwner = none ∧ s.storeExists = true ∧
      s.storeGen = s.me.gen ∧ s.readByte 0x08 = some 0x00 ∧ s.readByte 0x04 ≠ some 0x00) ∧
    storeOf (exec .claimSlot s) = some fresh ∧ answer (exec .claimSlot s) = some [0x81, 0x00, 0x01] ∧
    (full.store.wf = true ∧ full.readByte 0x04 ≠ some 0x00 ∧ full.readByte 0x08 ≠ some 0x00) ∧
    answer (exec .claimSlot full) = some [0x81, 0x01, 0xFF] ∧
    (gone.storeExists = false ∧ gone.store.wf = true) ∧ answer (exec .claimSlot gone) = some [0x81, 0x01, 0xFF] ∧
    (low.store.wf = true ∧ low.readByte 0x04 = some 0x00) ∧ storeOf (exec .claimSlot low) = some lone := by decide

/-- V-T15, V-T16, V-T17, and the hypotheses of DetachExecResult with those of its clauses. -/
theorem test_witness_DetachExecResult :
    let moving := atA .shm .shm (slots [0x01, 0xAB, 0x81, 0x03] [0x02, 0xCD, 0x80, 0x03] 0x04) .attached .detach
    let alone := atA .shm .shm lone .attached .detach
    (moving.mode = .shm ∧ moving.me.cmd = .detach ∧ moving.me.seq = .attached ∧ moving.lockOwner = none ∧
      moving.storeExists = true ∧ moving.store.wf = true ∧ Slot.ofByte moving.me.slot = some .zero ∧
      moving.store.alive Slot.zero.peer ≠ 0x00 ∧ moving.store.phase .zero = 0x03) ∧
    storeOf (exec .detachExec moving) = some (slots [0x00, 0xAB, 0x81, 0x00] [0x02, 0xCD, 0x80, 0x03] 0x00) ∧
    answer (exec .detachExec moving) = some [0x84, 0x00] ∧
    (alone.store.wf = true ∧ alone.store.alive Slot.zero.peer = 0x00) ∧
    storeOf (exec .detachExec alone) = some [] := by decide

/-- V-A1, V-A2, and the hypotheses of LockAcquireResult with those of its clauses. -/
theorem test_witness_LockAcquireResult :
    let s := atA .shm .shm fresh .attached tick4
    let held := { s with lockOwner := some .B }
    let unlucky := { s with cfg := vectorParams .shm .shm true }
    (s.mode = .shm ∧ s.me.cmd = .update 4 0xAB 0x81 ∧ s.me.seq = .attached ∧ s.lockOwner ≠ some s.turn ∧
      s.lockOwner = none ∧ s.cfg.lockMayFailSpuriously = false) ∧
    answer (exec .lockAcquire s) = none ∧
    held.lockOwner ≠ some held.turn ∧ answer (exec .lockAcquire held) = some [0x90, 0xAB, 0x81, 0x00, 0x02] ∧
    (unlucky.lockOwner = none ∧ unlucky.cfg.lockMayFailSpuriously = true ∧ unlucky.drawn = false) ∧
    answer (exec .lockAcquire unlucky) = some [0x90, 0xAB, 0x81, 0x00, 0x02] := by decide

/-- V-S17 through COMMIT (the example of R111), and the hypotheses of CommitResult. -/
theorem test_witness_CommitResult :
    let s := { atA .shm .shm (slots [0x01, 0xAB, 0x81, 0x03] [0x01, 0xCD, 0x80, 0x03] 0x04) .attached tick4 with
      lockOwner := some .A }
    (s.mode = .shm ∧ s.me.cmd = .update 4 0xAB 0x81 ∧ s.lockOwner = some s.turn ∧ s.storeExists = true ∧
      Slot.ofByte s.me.slot = some .zero) ∧
    answer (exec .commit s) = some [0x90, 0xAB, 0x81, 0x00, 0x00] ∧
    storeOf (exec .commit s) = some (slots [0x01, 0xCD, 0x01, 0x04] [0x01, 0xAB, 0x00, 0x04] 0x00) := by decide

/-- V-A4: MALFORMED_STATE keeps L.DISC and is counted. -/
theorem test_commit_malformed :
    let s := { atA .shm .shm (slots [0x01, 0x00, 0x00, 0x01] [0x01, 0x00, 0x00, 0x07] 0x00) .attached
      (.update 4 0x12 0x00) with lockOwner := some .A }
    answer (exec .commit s) = some [0x90, 0x12, 0x00, 0x00, 0x04] ∧
    (localOf (exec .commit s)).map (fun l => (l.logCount, l.disc)) = some (1, false) := by decide

/-- V-A6, V-A7, and the hypotheses of UnlinkedExecResult. -/
theorem test_witness_UnlinkedExecResult :
    let s := fun cmd => { launched .unlinked .shm false with sideA := local_ .detached cmd 0x00 }
    ((s tick4).mode = .unlinked ∧ (s tick4).me.cmd = .update 4 0xAB 0x81 ∧ (s .attach).me.cmd = .attach ∧
      (s .detach).me.cmd = .detach) ∧
    answer (exec .unlinkedExec (s tick4)) = some [0x90, 0xAB, 0x81, 0x02, 0x00] ∧
    answer (exec .unlinkedExec (s .attach)) = some [0x81, 0x00, 0xFF] ∧
    answer (exec .unlinkedExec (s .detach)) = some [0x84, 0x00] := by decide

/-- V-A9, and the hypothesis of QueryExecResult. -/
theorem test_witness_QueryExecResult :
    let s := atA .shm .shm fresh .attached .query
    s.me.cmd = .query ∧ answer (exec .queryExec s) = some [0x85, 0x00] := by decide

/-- V-A10 to V-A12, and the hypotheses of TrivialExecResult with those of its clauses. -/
theorem test_witness_TrivialExecResult :
    let s := fun a b seq cmd => { launched a b false with sideA := { local_ seq cmd 0x01 with disc := true } }
    let u := Cmd.update 4 0x12 0x81
    ((s .shm .shm .detached u).mode ≠ .unlinked ∧ (s .shm .shm .detached u).me.cmd = .update 4 0x12 0x81 ∧
      (s .shm .shm .detached u).me.seq = .detached) ∧
    answer (exec .trivialExec (s .shm .shm .detached u)) = some [0x90, 0x12, 0x81, 0x02, 0x06] ∧
    answer (exec .trivialExec (s .shm .shm .detached .detach)) = some [0x84, 0x00] ∧
    answer (exec .trivialExec (s .shm .shm .attached .attach)) = some [0x81, 0x00, 0x01] ∧
    ((s .pipeParent .pipeChild .closed .attach).mode ≠ .shm ∧
      (s .pipeParent .pipeChild .closed .attach).me.seq = .closed) ∧
    answer (exec .trivialExec (s .pipeParent .pipeChild .closed .attach)) = some [0x81, 0x01, 0xFF] ∧
    answer (exec .trivialExec (s .pipeParent .pipeChild .closed u)) = some [0x90, 0x12, 0x81, 0x02, 0x06] ∧
    answer (exec .trivialExec (s .pipeParent .pipeChild .closed .detach)) = some [0x84, 0x00] := by decide

/-- V-A13, V-A14, and the hypothesis of IllegalExecResult. -/
theorem test_witness_IllegalExecResult :
    let s := atA .shm .shm fresh .attached .illegal
    let full := { s with sideA := { s.sideA with logCount := 0xFFFFFFFF } }
    s.me.cmd = .illegal ∧ answer (exec .illegalExec s) = some [0xFF, 0x07] ∧
    (localOf (exec .illegalExec s)).map (fun l => l.logCount) = some 1 ∧
    (localOf (exec .illegalExec full)).map (fun l => l.logCount) = some 0xFFFFFFFF := by decide

/-- States that meet the hypotheses of StoreUopsStopWithoutAStoreOrSlot, one for each of its clauses. -/
theorem test_witness_StoreUopsStopWithoutAStoreOrSlot :
    let gone := fun a b seq cmd => { atA a b [] seq cmd with storeExists := false }
    let held := { gone .shm .shm .attached tick4 with lockOwner := some .A }
    let lost := fun cmd lock => { atA .shm .shm fresh .attached cmd with
      sideA := local_ .attached cmd 0x02, lockOwner := lock }
    enabled (gone .shm .shm .created .attach) .initRegion = true ∧
    enabled (gone .shm .shm .initialized .attach) .publish = true ∧
    enabled (gone .shm .shm .attached .detach) .detachExec = true ∧ enabled held .commit = true ∧
    enabled (gone .pipeParent .pipeChild .attached tick4) .pUpdate = true ∧
    (lost .detach none).me.slot ≠ 0x00 ∧ (lost .detach none).me.slot ≠ 0x01 ∧
    enabled (lost .detach none) .detachExec = true ∧ enabled (lost tick4 (some .A)) .commit = true := by decide

/-! The µ-ops of PIPE mode (V-F…) -/

/-- The parent attached, with these bytes in C2P. -/
def parent (m : Memory) (cmd : Cmd) (c2p : List Byte) : State :=
  { atA .pipeParent .pipeChild m .attached cmd with c2p := ⟨c2p, false⟩ }

/-- The child as side A, with these bytes in P2C. -/
def child (seq : Seq) (cmd : Cmd) (outstanding : Bool) (p2c : List Byte) : State :=
  { launched .pipeChild .pipeParent false with
    p2c := ⟨p2c, false⟩, sideA := { local_ seq cmd 0x01 with disc := true, outstanding := outstanding } }

/-- What a meaning left in C2P and in P2C. -/
def fifosOf (r : Result) : Option (Fifo × Fifo) :=
  match r with
  | .next t => some (t.c2p, t.p2c)
  | .fault _ => none
  | .refused _ => none

/-- V-F1, V-F2, and the hypotheses of POpenResult with those of its clauses. -/
theorem test_witness_POpenResult :
    let s := fun draw => { launched .pipeParent .pipeChild draw with sideA := local_ .detached .attach 0x00 }
    ((s false).mode = .pipeParent ∧ (s false).me.cmd = .attach ∧ (s false).me.seq = .detached ∧
      (s false).drawn = false) ∧
    storeOf (exec .pOpen (s false)) = some lone ∧ answer (exec .pOpen (s false)) = some [0x81, 0x00, 0x00] ∧
    (s true).drawn = true ∧ answer (exec .pOpen (s true)) = some [0x81, 0x01, 0xFF] ∧
    fifosOf (exec .pOpen (s true)) = some (⟨[], false⟩, ⟨[], true⟩) := by decide

/-- V-F14 and V-F15, and the hypotheses of ServiceWithoutAFrameOrRoom with those of its clauses. -/
theorem test_witness_ServiceWithoutAFrameOrRoom :
    let s := parent (slots [0x01, 0xAB, 0x81, 0x03] [0x01, 0xCD, 0x80, 0x03] 0x04) tick4 []
    let ended := { s with c2p := ⟨[], true⟩ }
    let full := fun (n : Nat) (frame : List Byte) => { s with c2p := ⟨frame, false⟩, p2c := ⟨List.replicate n 0x00, false⟩ }
    (s.c2p.bytes = [] ∧ s.store.wf = true ∧ ¬ (s.c2p.closed = true ∧ s.store.alive .one = 0x01)) ∧
    (ended.c2p.bytes = [] ∧ ended.c2p.closed = true ∧ ended.store.alive .one = 0x01 ∧
      ended.store.phase .one = 0x03) ∧
    (service ended).store = slots [0x01, 0xAB, 0x81, 0x03] [0x00, 0xCD, 0x80, 0x00] 0x00 ∧
    (full 6 [0x01]).cfg.fifoDepth - (full 6 [0x01]).p2c.bytes.length < 3 ∧
    (full 4 [0x10, 0, 0, 0, 0, 0, 0]).cfg.fifoDepth - (full 4 [0x10, 0, 0, 0, 0, 0, 0]).p2c.bytes.length < 5 ∧
    service (full 4 [0x10, 0, 0, 0, 0, 0, 0]) = full 4 [0x10, 0, 0, 0, 0, 0, 0] ∧
    (full 7 [0x22]).cfg.fifoDepth - (full 7 [0x22]).p2c.bytes.length < 2 := by decide

/-- V-F6, V-F10, V-F12, V-F13, and the hypotheses of ServiceAttachDetachJunk with those of its clauses. -/
theorem test_witness_ServiceAttachDetachJunk :
    let s := fun m frame => parent m tick4 frame
    ((s lone [0x01]).c2p.bytes = 0x01 :: [] ∧ (s lone [0x01]).store.wf = true ∧
      3 ≤ (s lone [0x01]).cfg.fifoDepth - (s lone [0x01]).p2c.bytes.length ∧ lone.alive .one = 0x00) ∧
    (service (s lone [0x01])).store = fresh ∧ (service (s lone [0x01])).p2c = ⟨[0x81, 0x00, 0x01], false⟩ ∧
    fresh.alive .one ≠ 0x00 ∧ (service (s fresh [0x01])).p2c = ⟨[0x81, 0x01, 0xFF], false⟩ ∧
    (s fresh [0x04, 0x22]).c2p.bytes = 0x04 :: [0x22] ∧
    (service (s (slots [0x01, 0xAB, 0x81, 0x03] [0x01, 0xCD, 0x80, 0x03] 0x04) [0x04])).store =
      slots [0x01, 0xAB, 0x81, 0x03] [0x00, 0xCD, 0x80, 0x00] 0x00 ∧
    2 ≤ (s lone [0x22]).cfg.fifoDepth - (s lone [0x22]).p2c.bytes.length ∧
    (service (s lone [0x22])).p2c = ⟨[0xFF, 0x07], false⟩ ∧ (service (s lone [0x22])).me.logCount = 1 := by decide

/-- V-F11, the example of R127, and the hypotheses of ServiceUpdateRunsSlotOne with those of its clauses. -/
theorem test_witness_ServiceUpdateRunsSlotOne :
    let frame : List Byte := [0x10, 0x04, 0x00, 0x00, 0x00, 0xCD, 0x80]
    let s := parent (slots [0x01, 0xAB, 0x81, 0x02] [0x01, 0x00, 0x00, 0x01] 0x00) tick4 frame
    let free := parent lone tick4 frame
    (s.c2p.bytes = [0x10, (4 : Word).extractLsb' 0 8, (4 : Word).extractLsb' 8 8, (4 : Word).extractLsb' 16 8,
        (4 : Word).extractLsb' 24 8, 0xCD, 0x80] ++ [] ∧
      5 ≤ s.cfg.fifoDepth - s.p2c.bytes.length ∧ s.store.alive .one = 0x01) ∧
    (service s).p2c = ⟨[0x90, 0xCD, 0x80, 0x00, 0x00], false⟩ ∧
    (service s).store = slots [0x01, 0xAB, 0x81, 0x03] [0x01, 0xCD, 0x80, 0x03] 0x00 ∧
    free.store.alive .one ≠ 0x01 ∧ (service free).p2c = ⟨[0x90, 0xCD, 0x80, 0x02, 0x06], false⟩ := by decide

/-- The example of R127, and the hypotheses of PUpdateResult. -/
theorem test_witness_PUpdateResult :
    let s := parent (slots [0x01, 0xAB, 0x81, 0x02] [0x01, 0x00, 0x00, 0x01] 0x00) tick4
      [0x10, 0x04, 0x00, 0x00, 0x00, 0xCD, 0x80]
    (s.mode = .pipeParent ∧ s.me.cmd = .update 4 0xAB 0x81 ∧ s.me.seq = .attached ∧ s.storeExists = true) ∧
    answer (exec .pUpdate s) = some [0x90, 0xAB, 0x81, 0x00, 0x00] ∧
    storeOf (exec .pUpdate s) = some (slots [0x01, 0xAB, 0x81, 0x03] [0x01, 0xCD, 0x80, 0x03] 0x04) := by decide

/-- V-F25, and the hypotheses of PCloseResult. -/
theorem test_witness_PCloseResult :
    let s := parent fresh .detach []
    (s.mode = .pipeParent ∧ s.me.cmd = .detach ∧ s.me.seq = .attached) ∧
    answer (exec .pClose s) = some [0x84, 0x00] ∧ storeOf (exec .pClose s) = some [] ∧
    fifosOf (exec .pClose s) = some (⟨[], false⟩, ⟨[], true⟩) := by decide

/-- V-F3, and the hypotheses of CSendAttachResult with those of its clauses. -/
theorem test_witness_CSendAttachResult :
    let s := fun draw bytes =>
      { child .detached .attach false [] with oracle := [draw], c2p := ⟨bytes, false⟩ }
    let full : List Byte := [0, 0, 0, 0, 0, 0, 0, 0]
    ((s false []).mode = .pipeChild ∧ (s false []).me.cmd = .attach ∧ (s false []).me.seq = .detached ∧
      (s false []).drawn = false ∧ (s false []).c2p.bytes.length < (s false []).cfg.fifoDepth) ∧
    fifosOf (exec .cSendAttach (s false [])) = some (⟨[0x01], false⟩, ⟨[], false⟩) ∧
    (s true full).drawn = true ∧ answer (exec .cSendAttach (s true full)) = some [0x81, 0x01, 0xFF] ∧
    (s false full).cfg.fifoDepth ≤ (s false full).c2p.bytes.length ∧ answer (exec .cSendAttach (s false full)) = none := by
  decide

/-- V-F4, V-F5, V-F7 to V-F9, and the hypotheses of CRecvAttachResult with those of its clauses. -/
theorem test_witness_CRecvAttachResult :
    let s := fun bytes => child .joining .attach false bytes
    let closed := { s [] with p2c := ⟨[], true⟩ }
    let last := fun bytes => { s bytes with sideA := { (s bytes).sideA with polls := 2 } }
    ((s [0x81, 0x00, 0x01]).mode = .pipeChild ∧ (s [0x81, 0x00, 0x01]).me.cmd = .attach ∧
      (s [0x81, 0x00, 0x01]).me.seq = .joining ∧ (s [0x81, 0x00, 0x01]).p2c.bytes = [0x81, 0x00, 0x01] ++ []) ∧
    answer (exec .cRecvAttach (s [0x81, 0x00, 0x01])) = some [0x81, 0x00, 0x01] ∧
    answer (exec .cRecvAttach (s [0x81, 0x01, 0xFF])) = some [0x81, 0x01, 0xFF] ∧
    (closed.p2c.bytes = [] ∧ closed.p2c.closed = true) ∧
    answer (exec .cRecvAttach closed) = some [0x81, 0x01, 0xFF] ∧
    ((s []).p2c.closed = false ∧ (s []).me.polls + 1 ≠ (s []).cfg.initPollLimit) ∧
    (localOf (exec .cRecvAttach (s []))).map (fun l => l.polls) = some 1 ∧
    (last []).me.polls + 1 = (last []).cfg.initPollLimit ∧
    answer (exec .cRecvAttach (last [])) = some [0x81, 0x01, 0xFF] ∧
    (localOf (exec .cRecvAttach (s [0xFF, 0x07]))).map (fun l => (l.polls, l.logCount)) = some (1, 1) ∧
    answer (exec .cRecvAttach (last [0x22])) = some [0x81, 0x01, 0xFF] := by decide

/-- V-F16, V-F17, V-F22, and the hypotheses of CUpdateWithoutAnAnswer with those of its clauses. -/
theorem test_witness_CUpdateWithoutAnAnswer :
    let s := fun outstanding => child .attached (.update 4 0xCD 0x80) outstanding []
    let closed := { s true with p2c := ⟨[], true⟩ }
    ((s false).mode = .pipeChild ∧ (s false).me.cmd = .update 4 0xCD 0x80 ∧ (s false).me.seq = .attached ∧
      (s false).me.outstanding = false ∧ (s false).p2c.closed = false ∧ (s false).p2c.bytes = []) ∧
    answer (exec .cUpdate (s false)) = some [0x90, 0xCD, 0x80, 0x02, 0x05] ∧
    fifosOf (exec .cUpdate (s false)) =
      some (⟨[0x10, 0x04, 0x00, 0x00, 0x00, 0xCD, 0x80], false⟩, ⟨[], false⟩) ∧
    (s true).me.outstanding = true ∧ (localOf (exec .cUpdate (s true))).map (fun l => l.acc) = some 4 ∧
    (closed.p2c.bytes = [] ∧ closed.p2c.closed = true) ∧
    answer (exec .cUpdate closed) = some [0x90, 0xCD, 0x80, 0x02, 0x03] := by decide

/-- V-F18 to V-F21, and the hypotheses of CUpdateWithAnAnswer with those of its clauses. -/
theorem test_witness_CUpdateWithAnAnswer :
    let s := fun bytes => child .attached (.update 4 0xCD 0x80) true bytes
    ((s [0x90, 0xCD, 0x80, 0x00, 0x00]).mode = .pipeChild ∧
      (s [0x90, 0xCD, 0x80, 0x00, 0x00]).me.cmd = .update 4 0xCD 0x80 ∧
      (s [0x90, 0xCD, 0x80, 0x00, 0x00]).me.seq = .attached ∧
      (s [0x90, 0xCD, 0x80, 0x00, 0x00]).me.outstanding = true ∧
      (s [0x90, 0xCD, 0x80, 0x00, 0x00]).p2c.bytes = [0x90, 0xCD, 0x80, 0x00, 0x00] ++ []) ∧
    answer (exec .cUpdate (s [0x90, 0xCD, 0x80, 0x00, 0x00])) = some [0x90, 0xCD, 0x80, 0x00, 0x00] ∧
    fifosOf (exec .cUpdate (s [0x90, 0xCD, 0x80, 0x00, 0x00])) =
      some (⟨[0x10, 0x04, 0x00, 0x00, 0x00, 0xCD, 0x80], false⟩, ⟨[], false⟩) ∧
    answer (exec .cUpdate (s [0x90, 0xAB, 0x00, 0x01, 0x00])) = some [0x90, 0xAB, 0x00, 0x01, 0x00] ∧
    answer (exec .cUpdate (s [0x90, 0xCD, 0x80, 0x00, 0x04])) = some [0x90, 0xCD, 0x80, 0x02, 0x04] ∧
    answer (exec .cUpdate (s [0xFF, 0x07])) = some [0x90, 0xCD, 0x80, 0x02, 0x05] ∧
    (localOf (exec .cUpdate (s [0xFF, 0x07]))).map (fun l => (l.logCount, l.outstanding)) = some (1, true) := by
  decide

/-- V-F23, V-F24, and the hypotheses of CCloseResult. -/
theorem test_witness_CCloseResult :
    let s := child .attached .detach true []
    let closed := { s with p2c := ⟨[], true⟩, c2p := ⟨[0, 0, 0, 0, 0, 0, 0, 0], false⟩ }
    (s.mode = .pipeChild ∧ s.me.cmd = .detach ∧ s.me.seq = .attached ∧ s.c2p.bytes.length < s.cfg.fifoDepth) ∧
    fifosOf (exec .cClose s) = some (⟨[0x04], true⟩, ⟨[], false⟩) ∧ answer (exec .cClose s) = some [0x84, 0x00] ∧
    closed.p2c.closed = true ∧
    fifosOf (exec .cClose closed) = some (⟨[0, 0, 0, 0, 0, 0, 0, 0], true⟩, ⟨[], true⟩) := by decide

/-- The hypotheses of PushIsWholeOrNothing with those of its clauses. -/
theorem test_witness_PushIsWholeOrNothing :
    let q : Fifo := ⟨[0, 0, 0, 0, 0, 0, 0], false⟩
    q.bytes.length ≤ 8 ∧ q.bytes.length + [(0x04 : Byte)].length ≤ 8 ∧
    q.push 8 [0x04] = ⟨[0, 0, 0, 0, 0, 0, 0, 0x04], false⟩ ∧
    8 < q.bytes.length + [(0x81 : Byte), 0x00, 0x01].length ∧ q.push 8 [0x81, 0x00, 0x01] = q ∧
    (⟨[], true⟩ : Fifo).push 8 [0x04] = ⟨[], true⟩ := by decide

/-! The frames and the step -/

/-- V-E21 (a TICK's response), and its twin with the disc bit, whose bus reads 0xFF. -/
theorem test_updateRsp_writesBack :
    let s := launched .shm .shm false
    (localOf (exec (.updateRsp 0xAB 0x00 true false 0x00) s)).map
      (fun l => (l.host.sb, l.host.sc, l.host.serialRequests, l.host.busReadSB)) = some (0xAB, 0x00, 1, 0xAB) ∧
    (localOf (exec (.updateRsp 0xAB 0x81 false true 0x03) s)).map
      (fun l => (l.host.serialRequests, l.host.busReadSB)) = some (0, 0xFF) := by decide

/-- The hypotheses of RequestsBecomeTheCommand. -/
theorem test_witness_RequestsBecomeTheCommand :
    let s := launched .shm .shm false
    (s.me.cmd = .none ∧ s.me.host.response = none) ∧
    (localOf (exec (.update 4 0xAB 0x81) s)).map (fun l => l.cmd) = some tick4 := by decide

/-- Side A's host with this inbox, response port and command. -/
def hosted (inbox : List HostAction) (response : Option (List Byte)) (cmd : Cmd) : State :=
  { launched .shm .shm false with sideA :=
      { SideState.launch with cmd := cmd, host := { HostState.launch with inbox := inbox, response := response } } }

/-- The hypotheses of every clause of StepRunsDecodedInstruction, and what the steps do. -/
theorem test_witness_StepRunsDecodedInstruction :
    let request := hosted [.frame [0x01]] none .none
    let response := hosted [] (some [0x84, 0x00]) .none
    let uop := hosted [] none .query
    (request.cfg.legalModePair = true ∧ fetch request.chooseSide = .request [0x01] ∧
      decodeRequest [0x01] = .ok .attach ∧ (localOf (step request)).map (fun l => (l.cmd, l.host.inbox)) =
        some (.attach, [])) ∧
    (fetch response.chooseSide = .response [0x84, 0x00] ∧ decodeResponse [0x84, 0x00] = .ok (.detachRsp 0x00) ∧
      (localOf (step response)).map (fun l => l.host.received) = some [ [0x84, 0x00] ]) ∧
    (fetch uop.chooseSide = .uop 0x49 ∧ decodeUop 0x49 = some .queryExec ∧
      answer (step uop) = some [0x85, 0x01]) ∧
    fetch (hosted [.writeSC 0x81] none .none).chooseSide = .cpuWrite false 0x81 ∧
    fetch (hosted [] none .none).chooseSide = .idle := by decide

/-- The hypotheses of every clause of FetchOrder. -/
theorem test_witness_FetchOrder :
    (hosted [] (some [0x84, 0x00]) .none).me.host.response = some [0x84, 0x00] ∧
    ((hosted [] none .none).me.host.response = none ∧ (hosted [] none .none).me.cmd = .none) ∧
    fetch (hosted [.tick 4] none .none) = .request [0x10, 0x04, 0x00, 0x00, 0x00, 0x00, 0x7E] ∧
    fetch (hosted [.writeSB 0x3C] none .none) = .cpuWrite true 0x3C ∧
    (hosted [] none .query).me.cmd ≠ .none ∧ (hosted [] none .query).selected = some .queryExec := by decide

/-- V-A13, and the hypotheses of IllegalFrameIsHeldForIllegalExec. -/
theorem test_witness_IllegalFrameIsHeldForIllegalExec :
    let s := hosted [.frame [0x22]] none .none
    (s.cfg.legalModePair = true ∧ fetch s.chooseSide = .request [0x22] ∧
      decodeRequest [0x22] = .error (.unknownOpcode 0x22)) ∧
    (localOf (step s)).map (fun l => l.cmd) = some .illegal := by decide

/-- A state on each side of StepRefusesExactlyOtherModePairs. -/
theorem test_witness_StepRefusesExactlyOtherModePairs :
    (vectorParams .pipeChild .pipeParent false).legalModePair = true ∧
    (vectorParams .pipeChild .unlinked false).legalModePair = true ∧
    (vectorParams .shm .pipeChild false).legalModePair = false ∧
    (vectorParams .pipeParent .pipeParent false).legalModePair = false := by decide

/-- The hypotheses of EnabledUopIsSelected, for COMMIT and for INIT_REGION. -/
theorem test_witness_EnabledUopIsSelected :
    let commits := { atA .shm .shm fresh .attached tick4 with lockOwner := some .A }
    let creates := atA .shm .shm [] .created .attach
    (Instr.kind .commit = .uop ∧ enabled commits .commit = true ∧ commits.me.seq = .attached ∧
      commits.lockOwner = some commits.turn ∧ commits.selected = some .commit) ∧
    (enabled creates .initRegion = true ∧ creates.me.cmd = .attach ∧ creates.lockOwner ≠ some creates.turn ∧
      creates.selected = some .initRegion) := by decide

/-- V-T8, V-T19, and the hypotheses of NotEnabledWaits. -/
theorem test_witness_NotEnabledWaits :
    let joins := { atA .shm .shm lone .publishedSeen .attach with lockOwner := some .B }
    let leaves := { atA .shm .shm fresh .attached .detach with lockOwner := some .B }
    enabled joins .claimSlot = false ∧ Instr.claimSlot ≠ .cSendAttach ∧ enabled leaves .detachExec = false := by
  decide

/-! The statements about STEP -/

/-- The hypotheses of DeliveryResult, PeerAbsentResult, RecoveryAndAbandonmentFallThrough, TransferCountsAndExchanges and
LatchAndStart, with those of their clauses. -/
theorem test_witness_stepResults :
    let complete := slots [0x01, 0xCD, 0x01, 0x04] [0x00, 0xAB, 0x00, 0x00] 0x00
    let absent := slots [0x01, 0xAB, 0x81, 0x03] [0x00, 0xCD, 0x80, 0x00] 0x04
    let recovers := slots [0x01, 0x00, 0x00, 0x00] [0x01, 0x00, 0x00, 0x01] 0x00
    let abandoned := slots [0x01, 0xAB, 0x81, 0x03] [0x01, 0x00, 0x00, 0x00] 0x04
    let moving := slots [0x01, 0xAB, 0x81, 0x03] [0x01, 0xCD, 0x80, 0x03] 0x04
    let waits := slots [0x01, 0xAB, 0x81, 0x02] [0x01, 0x00, 0x00, 0x01] 0x00
    (complete.wf = true ∧ malformed complete .zero = false ∧ complete.phase .zero = 0x04) ∧
    (absent.wf = true ∧ malformed absent .zero = false ∧ absent.phase .zero ≠ 0x04 ∧
      absent.alive Slot.zero.peer = 0x00 ∧ absent.phase .zero = 0x03) ∧
    (recovers.wf = true ∧ malformed recovers .zero = false ∧ recovers.alive Slot.zero.peer = 0x01 ∧
      recovers.phase .zero = 0x00) ∧
    (abandoned.wf = true ∧ malformed abandoned .zero = false ∧ abandoned.alive Slot.zero.peer = 0x01 ∧
      abandoned.phase .zero = 0x03 ∧ abandoned.phase Slot.zero.peer ≠ 0x03) ∧
    (moving.wf = true ∧ malformed moving .zero = false ∧ moving.alive Slot.zero.peer = 0x01 ∧
      moving.phase .zero = 0x03 ∧ moving.phase Slot.zero.peer = 0x03 ∧ (moving.control .zero).getLsbD 0 = true ∧
      min (moving.counter.toNat + (3 : Word).toNat) 0xFFFF < (8 : Half).toNat ∧
      (8 : Half).toNat ≤ min (moving.counter.toNat + (4 : Word).toNat) 0xFFFF) ∧
    (waits.wf = true ∧ malformed waits .one = false ∧ waits.alive Slot.one.peer = 0x01 ∧ waits.phase .one = 0x01 ∧
      waits.phase Slot.one.peer = 0x02 ∧ (waits.control Slot.one.peer).getLsbD 7 = true) := by decide

/-- The hypotheses of NoStartWithoutBothRequests, CompleteSlotWaitsForItsOwnSide and StepNeverWritesOutsideOrAlive. -/
theorem test_witness_stepRules :
    let waits := slots [0x01, 0xAB, 0x81, 0x02] [0x01, 0x00, 0x00, 0x01] 0x00
    let complete := slots [0x01, 0xCD, 0x01, 0x04] [0x01, 0xAB, 0x00, 0x01] 0x00
    (waits.wf = true ∧ malformed waits .one = false ∧ waits.phase .one ≠ 0x03 ∧
      (protocolStep 8 waits .one 4 0xCD 0x80).store.phase .one = 0x03) ∧
    (complete.wf = true ∧ complete.phase .zero = 0x04 ∧ malformed complete .zero = false) ∧
    (protocolStep 8 complete Slot.zero.peer 4 0xAB 0x80).store =
      slots [0x01, 0xCD, 0x01, 0x04] [0x01, 0xAB, 0x80, 0x01] 0x00 := by decide

/-- V-S15 and V-S15 with its slots swapped: the hypotheses of StepIsSymmetricInTheSlots. -/
theorem test_witness_StepIsSymmetricInTheSlots :
    let m := slots [0x01, 0xAB, 0x81, 0x03] [0x01, 0xCD, 0x80, 0x03] 0x04
    let n := slots [0x01, 0xCD, 0x80, 0x03] [0x01, 0xAB, 0x81, 0x03] 0x04
    m.wf = true ∧ n.wf = true ∧ swappedStores m n := by
  refine ⟨by decide, by decide, by decide, fun i => by unfold slotReads; cases i <;> decide, ?_⟩
  intro a ha
  obtain h | h := Nat.lt_or_ge a 0x10
  · interval_cases a <;> first | omega | decide
  · simp [slots, store16, Memory.read, List.zip, List.range, List.range.loop]
    split_ifs <;> first | omega | rfl

/-! The whole-machine rules and the invariants -/

/-- Both sides attached, A inside its UPDATE with the lock, the transfer of V-S17 under way. -/
def committing : State :=
  { atA .shm .shm (slots [0x01, 0xAB, 0x81, 0x03] [0x01, 0xCD, 0x80, 0x03] 0x04) .attached tick4 with
    lockOwner := some .A }

/-- The hypotheses of StepKeepsTheConfiguration, OtherSideIsNotWritten and StepKeepsTheFormOfStoreAndFifos, and the
premises of the latter's clauses. -/
theorem test_witness_stepAnswers :
    (∃ t, step committing = .next t) ∧ (∃ t, exec .commit committing = .next t) ∧
    committing.storeCanonical ∧ committing.fifosBounded :=
  ⟨⟨_, rfl⟩, ⟨_, rfl⟩, ⟨by decide, by decide⟩, by decide, by decide⟩

/-- The hypotheses of LockChangesHandsByTheRule with those of its clauses. -/
theorem test_witness_LockChangesHandsByTheRule :
    let free := atA .shm .shm fresh .attached tick4
    let other := { free with lockOwner := some .B }
    ((∃ t, exec .commit committing = .next t ∧ t.lockOwner = none) ∧ committing.lockOwner = some committing.turn) ∧
    ((∃ t, exec .lockAcquire free = .next t ∧ t.lockOwner = some free.turn) ∧ free.lockOwner = none) ∧
    ((∃ t, exec .lockAcquire other = .next t ∧ t.lockOwner = other.lockOwner) ∧
      other.lockOwner = some (otherSide other.turn)) ∧
    ¬ (Instr.lockAcquire = .createOrOpen ∧ free.storeExists = false) := by
  refine ⟨⟨⟨_, rfl, rfl⟩, rfl⟩, ⟨⟨_, rfl, rfl⟩, rfl⟩, ⟨⟨_, rfl, rfl⟩, rfl⟩, by decide⟩

/-- The hypotheses of ChildNeverWritesTheStore and of OnlyPublishWritesInit. -/
theorem test_witness_storeWriters :
    let writes := child .attached (.update 4 0xCD 0x80) false []
    (writes.mode = .pipeChild ∧ ∃ t, exec .cUpdate writes = .next t) ∧
    (committing.store.wf = true ∧ committing.storeExists = true ∧ Instr.commit ≠ .publish ∧
      ∃ t, exec .commit committing = .next t ∧ t.storeExists = true ∧ t.storeGen = committing.storeGen) :=
  ⟨⟨rfl, _, rfl⟩, by decide, rfl, by decide, _, rfl, rfl, rfl⟩

/-- The hypotheses of StepKeepsTheStoreInvariants, with COUNTER not 0. -/
theorem test_witness_StepKeepsTheStoreInvariants :
    committing.storeCanonical ∧ storeInvariant committing.store ∧ ∃ t, step committing = .next t := by
  refine ⟨⟨by decide, by decide⟩, ⟨fun _ => by decide, fun i => ?_, fun i => ?_, fun i => ?_⟩, _, rfl⟩ <;>
    cases i <;> decide

/-- The hypothesis of SafeStatesStepToSafeStates, in the middle of an UPDATE that holds the lock. -/
theorem test_witness_SafeStatesStepToSafeStates : committing.safe := by
  refine ⟨by decide, ⟨by decide, by decide⟩, ⟨fun X _ => ?_, fun _ _ => ⟨?_, ?_⟩, fun X h => ?_, fun X h => ?_⟩, ?_⟩
  · cases X
    · refine ⟨by decide, by decide, fun h => ?_, fun h => ?_, fun h => ?_, fun _ => ?_, by decide⟩
      · exact absurd h (by simp [Seq.creating, committing, atA, local_, State.side])
      · exact absurd h (by decide)
      · exact absurd h (by decide)
      · exact ⟨by decide, by decide, by decide, .zero, by decide, by decide⟩
    · refine ⟨by decide, by decide, fun h => ?_, fun h => ?_, fun h => ?_, fun _ => ?_, by decide⟩
      · exact absurd h (by simp [Seq.creating, committing, atA, local_, State.side])
      · exact absurd h (by decide)
      · exact absurd h (by decide)
      · exact ⟨by decide, by decide, by decide, .one, by decide, by decide⟩
  · simp [Seq.creating, committing, atA, local_]
  · decide
  · cases X <;> exact absurd h (by decide)
  · cases X
    · decide
    · exact absurd h (by decide)
  · intro X bytes h
    cases X <;> exact absurd h (by simp [committing, atA, local_, State.side, SideState.launch, HostState.launch])

/-- The hypotheses of StepKeepsThePipeContents: an UPDATE in C2P while `L.OUTSTANDING`. -/
theorem test_witness_StepKeepsThePipeContents :
    let s := { child .attached (.update 4 0xCD 0x80) true [] with
      c2p := ⟨[0x10, 0x04, 0x00, 0x00, 0x00, 0xCD, 0x80], false⟩ }
    s.cfg.legalModePair = true ∧ 8 ≤ s.cfg.fifoDepth ∧ pipeOk s ∧ ∃ t, step s = .next t := by
  refine ⟨by decide, by decide, ⟨fun X h => ?_, fun h => absurd rfl h⟩, _, rfl⟩
  cases X
  · exact ⟨Or.inr ⟨rfl, Or.inl ⟨⟨4, 0xCD, 0x80, by decide⟩, rfl⟩⟩, fun h => absurd h (by decide),
      fun h => absurd h (by decide)⟩
  · exact absurd h (by decide)

/-- The hypothesis of LaunchMeetsTheInvariants, and a legal instance of ResetIsTheLaunchState. -/
theorem test_witness_LaunchMeetsTheInvariants :
    (vectorParams .shm .shm true).legalModePair = true ∧ (vectorParams .shm .shm true).legal = true := by decide

/-! Placing a table word -/

/-- The next step takes a request that withFetchWord placed. -/
theorem test_withFetchWord_request :
    (localOf (step (State.reset.withFetchWord 56 0x81AB0000000410))).map (fun l => l.cmd) = some tick4 := by decide

/-- The next step takes a response, and runs a µ-op, that withFetchWord placed. -/
theorem test_withFetchWord_responseAndUop :
    (localOf (step (State.reset.withFetchWord 40 0x0001008190))).map (fun l => l.host.sb) = some 0x81 ∧
    answer (step (State.reset.withFetchWord 8 0x49)) = some [0x85, 0x01] ∧
    answer (step (State.reset.withFetchWord 8 0x42)) = some [0x81, 0x00, 0x00] := by decide

end Sys2Proof.Tests
end

section
/-! PROOFS. The scope and the step (00_scope.md): what exec answers, what a side fetches and runs, and the statements
O4, O5, O7, O9 and O11. -/

namespace Sys2Proof.Machine

/-! When a meaning waits (R14) -/

theorem whenEnabled_of_not_enabled {s : State} {i : Instr} (h : enabled s i = false) (r : Result) :
    whenEnabled s i r = .next s := by
  simp [whenEnabled, h]

/-- A response can always be taken (R16). -/
theorem enabled_of_response {i : Instr} (h : i.kind = .response) (s : State) : enabled s i = true := by
  cases i with
  | attachRsp | detachRsp | queryRsp | updateRsp | errorRsp => rfl
  | _ => simp [Instr.kind] at h

/-- Every request and every µ-op but C_SEND_ATTACH is guarded by its condition of R77 (R32 for the requests). -/
theorem exec_eq_whenEnabled {i : Instr} (hk : i.kind ≠ .response) (hc : i ≠ .cSendAttach) (s : State) :
    ∃ r, exec i s = whenEnabled s i r := by
  cases i with
  | attachRsp | detachRsp | queryRsp | updateRsp | errorRsp => exact absurd rfl hk
  | cSendAttach => exact absurd rfl hc
  | _ => exact ⟨_, rfl⟩

/-- Settles O9: a response is always enabled, and whenEnabled guards the others. -/
theorem notEnabledWaits : Obligations.NotEnabledWaits := by
  intro s i hoff hc
  have hk : i.kind ≠ .response := fun hk => by simp [enabled_of_response hk] at hoff
  obtain ⟨r, hr⟩ := exec_eq_whenEnabled hk hc s
  rw [hr, whenEnabled_of_not_enabled hoff]

/-! No meaning refuses: the refusals of a step are its own (R11, log 15) -/

theorem whenEnabled_ne_refused {s : State} {i : Instr} {r : Result} {q : Refusal} (h : r ≠ .refused q) :
    whenEnabled s i r ≠ .refused q := by
  obtain ⟨_, hw⟩ | ⟨_, hw⟩ := whenEnabled_cases s i r <;> rw [hw]
  · exact h
  · nofun

theorem needStore_ne_refused (s t : State) (q : Refusal) : needStore s t ≠ .refused q := by
  unfold needStore; split <;> nofun

theorem atOwnSlot_ne_refused {s : State} {k : Slot → Result} {q : Refusal} (h : ∀ i, k i ≠ .refused q) :
    atOwnSlot s k ≠ .refused q := by
  unfold atOwnSlot
  split
  · split
    · exact h _
    · nofun
  · nofun

theorem onUpdate_ne_refused {s : State} {k : Word → Byte → Byte → Result} {q : Refusal}
    (h : ∀ e d c, k e d c ≠ .refused q) : onUpdate s k ≠ .refused q := by
  obtain ⟨e, d, c, _, hu⟩ | ⟨_, hu⟩ := onUpdate_cases s k <;> rw [hu]
  · exact h e d c
  · nofun

/-- C_SEND_ATTACH always answers a next state, also where it waits (R129, log 19). -/
theorem execCSendAttach_eq_next (s : State) : ∃ t, execCSendAttach s = .next t := by
  unfold execCSendAttach; split <;> exact ⟨_, rfl⟩

theorem exec_ne_refused (i : Instr) (s : State) (q : Refusal) : exec i s ≠ .refused q := by
  cases i with
  | attachRsp | detachRsp | queryRsp | updateRsp | errorRsp => nofun
  | initRegion | publish => exact whenEnabled_ne_refused (needStore_ne_refused _ _ _)
  | detachExec => exact whenEnabled_ne_refused (atOwnSlot_ne_refused nofun)
  | lockAcquire | cUpdate => exact whenEnabled_ne_refused (onUpdate_ne_refused nofun)
  | commit => exact whenEnabled_ne_refused (onUpdate_ne_refused fun _ _ _ => atOwnSlot_ne_refused nofun)
  | pUpdate => exact whenEnabled_ne_refused (onUpdate_ne_refused fun _ _ _ => needStore_ne_refused _ _ _)
  | cSendAttach =>
    obtain ⟨t, ht⟩ := execCSendAttach_eq_next s
    exact fun h => nomatch ht.symm.trans h
  | _ => exact whenEnabled_ne_refused nofun

/-! An action of one side, by what it fetched -/

section
variable {s : State}

theorem runSide_idle (h : fetch s = .idle) : runSide s = .next s := by
  simp only [runSide, h]

theorem runSide_response {bytes : List Byte} {i : Instr} (h : fetch s = .response bytes)
    (hd : decodeResponse bytes = .ok i) : runSide s = exec i s := by
  simp only [runSide, h, hd]

theorem runSide_response_error {bytes : List Byte} {err : DecodeError} (h : fetch s = .response bytes)
    (hd : decodeResponse bytes = .error err) : runSide s = .refused .undecodableResponse := by
  simp only [runSide, h, hd]

theorem runSide_request {bytes : List Byte} {i : Instr} (h : fetch s = .request bytes)
    (hd : decodeRequest bytes = .ok i) : runSide s = exec i s.popInbox := by
  simp only [runSide, h, hd]

theorem runSide_request_error {bytes : List Byte} {err : DecodeError} (h : fetch s = .request bytes)
    (hd : decodeRequest bytes = .error err) : runSide s = .next s.popInbox.takeIllegal := by
  simp only [runSide, h, hd]

theorem runSide_cpuWrite {isSB : Bool} {v : Byte} (h : fetch s = .cpuWrite isSB v) :
    runSide s = .next (s.popInbox.cpuWrite isSB v) := by
  simp only [runSide, h]

theorem runSide_uop {code : Byte} {i : Instr} (h : fetch s = .uop code) (hd : decodeUop code = some i) :
    runSide s = exec i s := by
  simp only [runSide, h, hd]

theorem runSide_uop_none {code : Byte} (h : fetch s = .uop code) (hd : decodeUop code = none) :
    runSide s = .refused .unknownUop := by
  simp only [runSide, h, hd]

end

/-- A side's action is refused only for what stands in its port or its trace code, never for the modes (R11). -/
theorem runSide_ne_illegalModePair (s : State) : runSide s ≠ .refused .illegalModePair := by
  cases hf : fetch s with
  | idle => rw [runSide_idle hf]; nofun
  | response bytes =>
    cases hd : decodeResponse bytes with
    | ok i => rw [runSide_response hf hd]; exact exec_ne_refused i s _
    | error err => rw [runSide_response_error hf hd]; nofun
  | request bytes =>
    cases hd : decodeRequest bytes with
    | ok i => rw [runSide_request hf hd]; exact exec_ne_refused i _ _
    | error err => rw [runSide_request_error hf hd]; nofun
  | cpuWrite isSB v => rw [runSide_cpuWrite hf]; nofun
  | uop code =>
    cases hd : decodeUop code with
    | some i => rw [runSide_uop hf hd]; exact exec_ne_refused i s _
    | none => rw [runSide_uop_none hf hd]; nofun

/-! The step and the MODE pairs (R11) -/

theorem step_of_legal {s : State} (h : s.cfg.legalModePair = true) : step s = runSide s.chooseSide := by
  simp [step, h]

theorem step_of_not_legal {s : State} (h : s.cfg.legalModePair = false) : step s = .refused .illegalModePair := by
  simp [step, h]

theorem step_eq_illegalModePair_iff (s : State) :
    step s = .refused .illegalModePair ↔ s.cfg.legalModePair = false := by
  cases h : s.cfg.legalModePair with
  | false => simp [step_of_not_legal h]
  | true => simp [step_of_legal h, runSide_ne_illegalModePair]

theorem legalModePair_iff (p : Params) :
    p.legalModePair = true ↔
      (p.modeA = .shm ∧ p.modeB = .shm) ∨ (p.modeA = .pipeParent ∧ p.modeB = .pipeChild) ∨
      (p.modeA = .pipeChild ∧ p.modeB = .pipeParent) ∨ p.modeA = .unlinked ∨ p.modeB = .unlinked := by
  cases hA : p.modeA <;> cases hB : p.modeB <;> simp [Params.legalModePair, hA, hB]

/-- Settles O7: the test of step is the only source of this refusal. -/
theorem stepRefusesExactlyOtherModePairs : Obligations.StepRefusesExactlyOtherModePairs := by
  intro s
  rw [step_eq_illegalModePair_iff, ← legalModePair_iff, Bool.not_eq_true]

/-! Actions on the acting side alone -/

theorem localOnly_setMe (s : State) (l : SideState) : localOnly s (s.setMe l) l := by
  simp [localOnly, sameElsewhere]

/-- The host's reception of a frame (R16). -/
theorem localOnly_receive (s : State) (f : Instr) :
    localOnly s (s.receive f) { s.me with
      host := { s.me.host with response := none, received := s.me.host.received ++ [encode f] } } :=
  localOnly_setMe _ _

/-- A CPU write that has left the inbox (R42, log 10). -/
theorem popInbox_cpuWrite (s : State) (isSB : Bool) (v : Byte) :
    s.popInbox.cpuWrite isSB v = s.setMe { s.me with host := { s.me.host with
      inbox := s.me.host.inbox.tail
      sb := if isSB then v else s.me.host.sb
      sc := if isSB then s.me.host.sc else v } } := by
  cases isSB <;> simp [State.cpuWrite, State.popInbox]

/-- Settles O11: each of the four is the shared reception, and the bytes are its encoding (R71 to R73, R75). -/
theorem responsesReachTheHost : Obligations.ResponsesReachTheHost := by
  intro s got
  exact ⟨fun st slot => ⟨_, rfl, localOnly_receive s (.attachRsp st slot)⟩,
    fun st => ⟨_, rfl, localOnly_receive s (.detachRsp st)⟩,
    fun disc => ⟨_, rfl, localOnly_receive s (.queryRsp disc)⟩,
    fun st => ⟨_, rfl, localOnly_receive s (.errorRsp st)⟩⟩

/-- Settles O4: with legal modes the step is the chosen side's action. -/
theorem stepRunsDecodedInstruction : Obligations.StepRunsDecodedInstruction := by
  intro s i hlegal
  rw [step_of_legal hlegal]
  refine ⟨fun bytes hf hd => runSide_request hf hd, fun bytes hf hd => runSide_response hf hd,
    fun code hf hd => runSide_uop hf hd, fun isSB v hf => ⟨_, runSide_cpuWrite hf, ?_⟩, runSide_idle⟩
  rw [popInbox_cpuWrite]
  exact localOnly_setMe _ _

/-! What a side fetches (R3, R33) -/

theorem fetch_of_response {s : State} {bytes : List Byte} (h : s.me.host.response = some bytes) :
    fetch s = .response bytes := by
  simp only [fetch, h]

theorem fetch_of_no_command {s : State} (hr : s.me.host.response = none) (hc : s.me.cmd = .none) :
    fetch s = fetchInbox s.me.host := by
  simp only [fetch, hr, hc, if_true]

theorem fetch_of_selected {s : State} {i : Instr} (hr : s.me.host.response = none) (hc : s.me.cmd ≠ .none)
    (hi : s.selected = some i) : fetch s = .uop (uopCode i) := by
  simp only [fetch, hr, hc, hi, if_false]

theorem decodeUop_uopCode {i : Instr} (h : i.kind = .uop) : decodeUop (uopCode i) = some i := by
  cases i with
  | attach | detach | query | update | attachRsp | detachRsp | queryRsp | updateRsp | errorRsp =>
    simp [Instr.kind] at h
  | _ => rfl

/-! The sequencer selects µ-ops only, row by row of R78 -/

theorem kind_of_selectShm {holds : Bool} {cmd : Cmd} {seq : Seq} {i : Instr}
    (h : selectShm holds cmd seq = some i) : i.kind = .uop := by
  cases cmd with
  | none | query | illegal => cases h
  | attach | detach => cases seq <;> cases h <;> rfl
  | update =>
    cases seq <;> cases h
    case attached.refl => cases holds <;> rfl
    case detached.refl => rfl

theorem kind_of_selectParent {cmd : Cmd} {seq : Seq} {i : Instr} (h : selectParent cmd seq = some i) :
    i.kind = .uop := by
  cases cmd with
  | none | query | illegal => cases h
  | attach | detach | update => cases seq <;> cases h <;> rfl

theorem kind_of_selectChild {cmd : Cmd} {seq : Seq} {i : Instr} (h : selectChild cmd seq = some i) :
    i.kind = .uop := by
  cases cmd with
  | none | query | illegal => cases h
  | attach | detach | update => cases seq <;> cases h <;> rfl

theorem kind_of_select {mode : Mode} {holds : Bool} {cmd : Cmd} {seq : Seq} {i : Instr}
    (h : select mode holds cmd seq = some i) : i.kind = .uop := by
  cases cmd with
  | none => cases h
  | query | illegal => cases h; rfl
  | attach | detach | update =>
    cases mode with
    | unlinked => cases h; rfl
    | shm => exact kind_of_selectShm h
    | pipeParent => exact kind_of_selectParent h
    | pipeChild => exact kind_of_selectChild h

/-- Settles O5: the port comes before the inbox, and a selected µ-op is fetched by a code that decodes to it. -/
theorem fetchOrder : Obligations.FetchOrder := by
  intro s
  refine ⟨fun _ => fetch_of_response, fun hr hc => ?_, fun hr hc i hi =>
    ⟨_, fetch_of_selected hr hc hi, decodeUop_uopCode (kind_of_select hi)⟩⟩
  rw [fetch_of_no_command hr hc]
  refine ⟨fun h => ?_, fun bytes rest h => ?_, fun e rest h => ?_, fun v rest h => ?_, fun v rest h => ?_⟩ <;>
    simp [fetchInbox, h, encode, wordByte]

end Sys2Proof.Machine
end

section
/-! PROOFS. The state (10_state.md): a request as the side's command, the stops without a store or a slot, the launch
state, and the statements O10, O36, O49 and O60. -/

namespace Sys2Proof.Machine

/-! A request and L.CMD (R32) -/

/-- What an enabled request that issues `cmd` leaves behind. -/
theorem exec_of_issue {s : State} {i : Instr} {cmd : Cmd} (hi : enabled s i = true)
    (he : exec i s = whenEnabled s i (.next (s.issue cmd))) :
    ∃ t, exec i s = .next t ∧ localOnly s t { s.me with cmd := cmd } :=
  ⟨_, he.trans (whenEnabled_of_enabled hi _), localOnly_setMe _ _⟩

/-- Settles O10: the four requests share one condition (R3, R32), and each issues its command. -/
theorem requestsBecomeTheCommand : Obligations.RequestsBecomeTheCommand := by
  intro s hcmd hport
  have henabled := decide_eq_true (And.intro hcmd hport)
  exact ⟨exec_of_issue henabled rfl, exec_of_issue henabled rfl, exec_of_issue henabled rfl,
    fun _ _ _ => exec_of_issue henabled rfl⟩

/-! Where a µ-op has no store or no slot (R20, R34; log 21) -/

theorem needStore_of_no_store {s : State} (h : s.storeExists = false) (t : State) : needStore s t = .fault .noStore := by
  simp [needStore, h]

theorem atOwnSlot_of_no_store {s : State} (h : s.storeExists = false) (k : Slot → Result) :
    atOwnSlot s k = .fault .noStore := by
  simp [atOwnSlot, h]

theorem ofByte_eq_none {b : Byte} (h0 : b ≠ 0x00) (h1 : b ≠ 0x01) : Slot.ofByte b = none := by
  rw [Slot.ofByte, if_neg h0, if_neg h1]

theorem atOwnSlot_of_no_slot {s : State} (h : s.storeExists = true) (hs : Slot.ofByte s.me.slot = none)
    (k : Slot → Result) : atOwnSlot s k = .fault .noSlot := by
  simp [atOwnSlot, h, hs]

/-- Inside an UPDATE, what holds of the answer for every operand holds of the answer (R32). -/
theorem onUpdate_of_isUpdate {s : State} (h : s.me.cmd.isUpdate = true) {k : Word → Byte → Byte → Result} {r : Result}
    (hk : ∀ e d c, k e d c = r) : onUpdate s k = r := by
  obtain ⟨e, d, c, _, hu⟩ | ⟨hn, _⟩ := onUpdate_cases s k
  · rw [hu, hk]
  · simp [h] at hn

theorem isUpdate_of_enabled_commit {s : State} (h : enabled s .commit = true) : s.me.cmd.isUpdate = true :=
  (of_decide_eq_true h).2.1

theorem isUpdate_of_enabled_pUpdate {s : State} (h : enabled s .pUpdate = true) : s.me.cmd.isUpdate = true :=
  (of_decide_eq_true h).2.1

/-- Settles O36: an enabled µ-op reaches the test for the store, and DETACH_EXEC and COMMIT the one for the slot. -/
theorem storeUopsStopWithoutAStoreOrSlot : Obligations.StoreUopsStopWithoutAStoreOrSlot := by
  intro s
  constructor
  · intro he
    exact ⟨fun hi => (whenEnabled_of_enabled hi _).trans (needStore_of_no_store he _),
      fun hi => (whenEnabled_of_enabled hi _).trans (needStore_of_no_store he _),
      fun hi => (whenEnabled_of_enabled hi _).trans (atOwnSlot_of_no_store he _),
      fun hi => (whenEnabled_of_enabled hi _).trans
        (onUpdate_of_isUpdate (isUpdate_of_enabled_commit hi) fun _ _ _ => atOwnSlot_of_no_store he _),
      fun hi => (whenEnabled_of_enabled hi _).trans
        (onUpdate_of_isUpdate (isUpdate_of_enabled_pUpdate hi) fun _ _ _ => needStore_of_no_store he _)⟩
  · intro he h0 h1
    have hs := ofByte_eq_none h0 h1
    exact ⟨fun hi => (whenEnabled_of_enabled hi _).trans (atOwnSlot_of_no_slot he hs _),
      fun hi => (whenEnabled_of_enabled hi _).trans
        (onUpdate_of_isUpdate (isUpdate_of_enabled_commit hi) fun _ _ _ => atOwnSlot_of_no_slot he hs _)⟩

/-! The launch state (R43) -/

@[simp] theorem launch_side (p : Params) (X : Side) : (State.launch p).side X = SideState.launch := by cases X <;> rfl

/-- The free values of `Config.launchParams` are held as distances from the ranges' lower ends (R6, R7, R8; log 3). -/
theorem launchParams_legal : Config.launchParams.legal = true := by
  have hlt := Config.thresholdLessOne.isLt
  have hthreshold : 1 ≤ Config.launchParams.transferThreshold.toNat := by
    simp only [Config.launchParams, BitVec.toNat_ofNat]
    omega
  have hmodes : Config.launchParams.legalModePair = true := rfl
  have hpolls : 1 ≤ Config.launchParams.initPollLimit := Nat.le_add_left _ _
  have hdepth : 8 ≤ Config.launchParams.fifoDepth := Nat.le_add_left _ _
  simp [Params.legal, hmodes, hthreshold, hpolls, hdepth]

/-- Settles O49: both sides launch alike, and reset launches `Config.launchParams`. -/
theorem resetIsTheLaunchState : Obligations.ResetIsTheLaunchState := by
  refine ⟨fun p X => ?_, Config.launchParams, launchParams_legal, rfl, rfl⟩
  simp only [launch_side]
  exact ⟨rfl, rfl, rfl, rfl, rfl, rfl, rfl, rfl, rfl, rfl, rfl, rfl, rfl, rfl⟩

theorem launch_shmSideOk (p : Params) (X : Side) : shmSideOk (State.launch p) X := by
  simp [shmSideOk, SideState.launch, Seq.creating]

theorem launch_linkOk (p : Params) : linkOk (State.launch p) := by
  refine ⟨fun X _ => launch_shmSideOk p X, fun _ _ => ⟨?_, nofun⟩, fun X _ => ?_, nofun⟩
  · rintro ⟨h | h, _⟩ <;> cases h
  · simp [parentOk, SideState.launch]

theorem launch_safe {p : Params} (h : p.legalModePair = true) : (State.launch p).safe :=
  ⟨h, ⟨wf_nil, fun _ => rfl⟩, launch_linkOk p, fun X bytes hb => by simp [SideState.launch, HostState.launch] at hb⟩

/-- Without a store COUNTER reads 0 and every PHASE DISCONNECTED. -/
theorem storeInvariant_nil : storeInvariant [] := by
  have hphase : ∀ i, Memory.phase [] i = Phase.disconnected := fun _ => rfl
  exact ⟨fun h => absurd rfl h, fun i _ => hphase i, fun i h => absurd ((hphase i).symm.trans h) (by decide),
    fun i h => absurd ((hphase i).symm.trans h) (by decide)⟩

theorem launch_pipeOk (p : Params) : pipeOk (State.launch p) := by
  refine ⟨fun X _ => ⟨?_, nofun, nofun⟩, fun _ _ => ⟨rfl, rfl⟩⟩
  rw [launch_side]
  exact ⟨rfl, rfl, rfl⟩

/-- Settles O60: the invariants hold of DETACHED sides, no store, a free lock and empty FIFOs. -/
theorem launchMeetsTheInvariants : Obligations.LaunchMeetsTheInvariants := fun p h =>
  ⟨launch_safe h, storeInvariant_nil, ⟨Nat.zero_le _, Nat.zero_le _⟩, launch_pipeOk p⟩

end Sys2Proof.Machine
end

section
/-! PROOFS. What every action is made of (10_state.md): the elementary changes of a state, what each keeps (the
configuration, INIT, the forms of the store and the FIFOs), and the statements O50, O55 and O56. -/

namespace Sys2Proof.Machine

/-! Changes of the store's bytes that keep its form and INIT (R22, R29) -/

/-- From a canonical store `m`, `n` is a canonical store with the same INIT. -/
def KeepsInit (m n : Memory) : Prop := m.wf = true → n.wf = true ∧ n.init = m.init

section
variable {m n k : Memory}

theorem KeepsInit.refl (m : Memory) : KeepsInit m m := fun h => ⟨h, rfl⟩

theorem KeepsInit.trans (hmn : KeepsInit m n) (hnk : KeepsInit n k) : KeepsInit m k := fun hm =>
  have ⟨hn, hinit⟩ := hmn hm
  have ⟨hk, hinit'⟩ := hnk hn
  ⟨hk, hinit'.trans hinit⟩

theorem KeepsInit.ite {c : Prop} [Decidable c] (hn : KeepsInit m n) (hk : KeepsInit m k) :
    KeepsInit m (if c then n else k) := by
  split
  · exact hn
  · exact hk

theorem KeepsInit.setAlive (h : KeepsInit m n) (i : Slot) (v : Byte) : KeepsInit m (n.setAlive i v) :=
  h.trans fun hn => ⟨wf_setAlive n i v hn, init_setAlive n hn i v⟩
theorem KeepsInit.setData (h : KeepsInit m n) (i : Slot) (v : Byte) : KeepsInit m (n.setData i v) :=
  h.trans fun hn => ⟨wf_setData n i v hn, init_setData n hn i v⟩
theorem KeepsInit.setControl (h : KeepsInit m n) (i : Slot) (v : Byte) : KeepsInit m (n.setControl i v) :=
  h.trans fun hn => ⟨wf_setControl n i v hn, init_setControl n hn i v⟩
theorem KeepsInit.setPhase (h : KeepsInit m n) (i : Slot) (v : Byte) : KeepsInit m (n.setPhase i v) :=
  h.trans fun hn => ⟨wf_setPhase n i v hn, init_setPhase n hn i v⟩
theorem KeepsInit.setCounter (h : KeepsInit m n) (v : Half) : KeepsInit m (n.setCounter v) :=
  h.trans fun hn => ⟨wf_setCounter n v hn, init_setCounter n hn v⟩

end

/-- The zero fill of R83 begins behind INIT. -/
theorem keepsInit_fillProtected (m : Memory) : KeepsInit m (m.fill protectedOffset 0x00 12) := fun h =>
  ⟨wf_fill m _ _ _ (by decide) h, by
    rw [Memory.init, read_fill m _ _ _ _ (by decide) h, if_neg (by decide)]
    rfl⟩

theorem keepsInit_claim (m : Memory) (i : Slot) : KeepsInit m (claim m i) :=
  ((((KeepsInit.refl m).setAlive _ _).setData _ _).setControl _ _).setPhase _ _

theorem keepsInit_leaveSlot (m : Memory) (i : Slot) : KeepsInit m (leaveSlot m i) :=
  ((((KeepsInit.refl m).setCounter _).ite (.refl m)).setAlive _ _).setPhase _ _

/-! STEP (R91), stage by stage -/

theorem keepsInit_stageAbsent (m : Memory) (i : Slot) (d c : Byte) : KeepsInit m (stageAbsent m i d c).store :=
  (((KeepsInit.refl m).setCounter _).ite (.refl m)).setPhase _ _

theorem keepsInit_stageRecover (m : Memory) (i : Slot) : KeepsInit m (stageRecover m i) :=
  ((KeepsInit.refl m).setPhase _ _).ite (.refl m)

theorem keepsInit_exchange (m : Memory) : KeepsInit m (exchange m) :=
  have swapped := (((KeepsInit.refl m).setData _ _).setData _ _).setControl _ _ |>.setControl _ _
  ((swapped.setPhase _ _).setPhase _ _).setCounter _

theorem keepsInit_advance (m : Memory) (i : Slot) (e : Word) : KeepsInit m (advance m i e) :=
  ((KeepsInit.refl m).setCounter _).ite (.refl m)

theorem keepsInit_stageTransfer (T : Half) (m : Memory) (i : Slot) (e : Word) (d c : Byte) :
    KeepsInit m (stageTransfer T m i e d c).store :=
  (keepsInit_advance m i e).trans ((keepsInit_exchange _).ite (.refl _))

theorem keepsInit_abandon (m : Memory) (i : Slot) : KeepsInit m (abandon m i) :=
  ((KeepsInit.refl m).setPhase _ _).setCounter _

theorem keepsInit_latch (m : Memory) (i : Slot) (d c : Byte) : KeepsInit m (latch m i d c) :=
  (((KeepsInit.refl m).setData _ _).setControl _ _).setPhase _ _

theorem keepsInit_stageLatch (m : Memory) (i : Slot) (d c : Byte) : KeepsInit m (stageLatch m i d c).store :=
  (keepsInit_latch m i d c).trans ((((KeepsInit.refl _).setPhase _ _).setPhase _ _).setCounter _ |>.ite (.refl _))

/-- No STEP writes INIT (R91), whichever of its six ways it takes. -/
theorem keepsInit_protocolStep (T : Half) (m : Memory) (i : Slot) (e : Word) (d c : Byte) :
    KeepsInit m (protocolStep T m i e d c).store := by
  have hrecover := keepsInit_stageRecover m i
  obtain ⟨_, h⟩ | ⟨_, _, h⟩ | ⟨_, _, _, h⟩ | ⟨_, _, _, _, _, h⟩ | ⟨_, _, _, _, _, h⟩ | ⟨_, _, _, _, h⟩ :=
    protocolStep_cases T m i e d c <;> rw [h]
  · exact .refl m
  · exact (KeepsInit.refl m).setPhase _ _
  · exact keepsInit_stageAbsent m i d c
  · exact hrecover.trans (keepsInit_stageTransfer T _ i e d c)
  · exact (hrecover.trans (keepsInit_abandon _ i)).trans (keepsInit_stageLatch _ i d c)
  · exact hrecover.trans (keepsInit_stageLatch _ i d c)

/-! The FIFOs' lengths (R22, R123) -/

theorem headC2P_length {q rest : List Byte} {f : ChildFrame} (h : headC2P q = some (f, rest)) :
    rest.length ≤ q.length := by
  unfold headC2P at h
  split at h
  · cases h
  · split_ifs at h
    · cases h; simp
    · cases h; simp
    · split at h <;> cases h <;> simp only [List.length_cons] <;> omega
    · cases h; simp

theorem headP2C_length {q rest : List Byte} {f : ParentFrame} (h : headP2C q = some (f, rest)) :
    rest.length ≤ q.length := by
  unfold headP2C at h
  split at h
  · cases h
  · split_ifs at h
    · split at h <;> cases h <;> simp only [List.length_cons] <;> omega
    · split at h <;> cases h <;> simp only [List.length_cons] <;> omega
    · split at h <;> cases h <;> simp only [List.length_cons] <;> omega
    · cases h; simp

theorem push_length (q : Fifo) (depth : Nat) (f : List Byte) :
    (q.push depth f).bytes.length ≤ max q.bytes.length depth := by
  obtain ⟨_, h⟩ | ⟨_, hroom, h⟩ := push_cases q depth f <;> rw [h]
  · exact le_max_left _ _
  · simp only [Fifo.room, List.length_append] at *
    omega

/-! The elementary changes -/

/-- One elementary change of `s` within an action of `i`. Only PUBLISH may write INIT of the store there is, the store is
edited only while it exists (R20), and a FIFO that grows stays within FIFO_DEPTH (R22). -/
inductive Change (i : Instr) (s : State) : State → Prop where
  | setMe (l : SideState) : Change i s (s.setMe l)
  | draw : Change i s s.afterDraw
  | setLock (o : Option Side) : Change i s { s with lockOwner := o }
  | createStore (m : Memory) (hwf : m.wf = true) :
      Change i s { s with storeExists := true, storeGen := s.storeGen + 1, store := m }
  | destroyStore : Change i s s.destroyStore
  | editStore (m : Memory) (hexists : s.storeExists = true) (hkeeps : KeepsInit s.store m) :
      Change i s { s with store := m }
  | publish (v : Byte) (hi : i = .publish) (hexists : s.storeExists = true) :
      Change i s { s with store := s.store.setInit v }
  | setC2P (q : Fifo) (hlen : q.bytes.length ≤ max s.c2p.bytes.length s.cfg.fifoDepth) : Change i s { s with c2p := q }
  | setP2C (q : Fifo) (hlen : q.bytes.length ≤ max s.p2c.bytes.length s.cfg.fifoDepth) : Change i s { s with p2c := q }

/-! What an elementary change keeps (R19, R22, R29) -/

theorem Change.cfg_eq {i : Instr} {s t : State} (h : Change i s t) : t.cfg = s.cfg := by
  cases h with
  | setMe l => exact setMe_cfg s l
  | draw => exact afterDraw_cfg s
  | _ => rfl

theorem Change.storeCanonical {i : Instr} {s t : State} (h : Change i s t) (hs : s.storeCanonical) :
    t.storeCanonical := by
  obtain ⟨hwf, hempty⟩ := hs
  cases h with
  | setMe l => simpa [State.storeCanonical] using And.intro hwf hempty
  | draw => simpa [State.storeCanonical] using And.intro hwf hempty
  | createStore m hm => exact ⟨hm, nofun⟩
  | destroyStore => exact ⟨wf_nil, fun _ => rfl⟩
  | editStore m he hk => exact ⟨(hk hwf).1, fun hn => absurd he (by simpa using hn)⟩
  | publish v _ he => exact ⟨wf_setInit _ v hwf, fun hn => absurd he (by simpa using hn)⟩
  | setLock | setC2P | setP2C => exact ⟨hwf, hempty⟩

theorem Change.fifosBounded {i : Instr} {s t : State} (h : Change i s t) (hs : s.fifosBounded) : t.fifosBounded := by
  obtain ⟨hc2p, hp2c⟩ := hs
  cases h with
  | setMe l => simpa [State.fifosBounded] using And.intro hc2p hp2c
  | draw => simpa [State.fifosBounded] using And.intro hc2p hp2c
  | setC2P q hlen => exact ⟨hlen.trans (max_le hc2p le_rfl), hp2c⟩
  | setP2C q hlen => exact ⟨hc2p, hlen.trans (max_le hp2c le_rfl)⟩
  | _ => exact ⟨hc2p, hp2c⟩

/-- S_GEN has not fallen from `s` to `t`; and where it has not risen and `t` has a store, that store is the one of `s`,
canonical and with the INIT it had (R20, R29). -/
def sameStoreKeepsInit (s t : State) : Prop :=
  s.storeGen ≤ t.storeGen ∧
  (t.storeExists = true → t.storeGen = s.storeGen → t.store.wf = true ∧ t.store.init = s.store.init)

theorem Change.sameStoreKeepsInit {i : Instr} {s t u : State} (h : Change i t u) (hi : i ≠ .publish)
    (ht : sameStoreKeepsInit s t) : sameStoreKeepsInit s u := by
  obtain ⟨hgen, hinit⟩ := ht
  cases h with
  | setMe l => simpa [Machine.sameStoreKeepsInit] using And.intro hgen hinit
  | draw => simpa [Machine.sameStoreKeepsInit] using And.intro hgen hinit
  | createStore m _ => exact ⟨hgen.trans (Nat.le_succ _), fun _ he => absurd hgen (by simp only at he; omega)⟩
  | destroyStore => exact ⟨hgen, nofun⟩
  | editStore m he hk =>
    refine ⟨hgen, fun _ hsame => ?_⟩
    obtain ⟨hwf, hsi⟩ := hinit he hsame
    exact ⟨(hk hwf).1, (hk hwf).2.trans hsi⟩
  | publish _ hp => exact absurd hp hi
  | setLock | setC2P | setP2C => exact ⟨hgen, hinit⟩

/-! Chains of elementary changes -/

/-- `t` comes from `s` by elementary changes within an action of `i`. -/
def Changes (i : Instr) : State → State → Prop := Relation.ReflTransGen (Change i)

section
variable {i : Instr} {s t u : State}

theorem Changes.refl (s : State) : Changes i s s := Relation.ReflTransGen.refl

theorem Changes.snoc (h : Changes i s t) (hu : Change i t u) : Changes i s u := Relation.ReflTransGen.tail h hu

theorem Changes.trans (h : Changes i s t) (hu : Changes i t u) : Changes i s u := Relation.ReflTransGen.trans h hu

/-- A property that every elementary change keeps is kept by a chain of them. -/
theorem Changes.keep {P : State → Prop} (h : Changes i s t) (hP : ∀ u v, Change i u v → P u → P v) (hs : P s) : P t := by
  induction h with
  | refl => exact hs
  | tail _ huv ih => exact hP _ _ huv ih

/-- Either way of a meaning's test. -/
theorem Changes.ite {c : Prop} [Decidable c] (ht : c → Changes i s t) (hu : ¬ c → Changes i s u) :
    Changes i s (if c then t else u) := by
  split
  · exact ht ‹_›
  · exact hu ‹_›

theorem Changes.setMe (h : Changes i s t) (l : SideState) : Changes i s (t.setMe l) := h.snoc (.setMe l)
theorem Changes.respond (h : Changes i s t) (f : Instr) : Changes i s (t.respond f) := h.setMe _
theorem Changes.attachFails (h : Changes i s t) : Changes i s t.attachFails := (h.setMe _).respond _
theorem Changes.pipeAttachFails (h : Changes i s t) (st : Byte) : Changes i s (t.pipeAttachFails st) :=
  (h.setMe _).respond _
theorem Changes.pushC2P (h : Changes i s t) (f : Instr) : Changes i s (t.pushC2P f) :=
  h.snoc (.setC2P _ (push_length _ _ _))
theorem Changes.pushP2C (h : Changes i s t) (f : Instr) : Changes i s (t.pushP2C f) :=
  h.snoc (.setP2C _ (push_length _ _ _))
theorem Changes.popC2P (h : Changes i s t) {f : ChildFrame} {rest : List Byte}
    (hr : headC2P t.c2p.bytes = some (f, rest)) : Changes i s (t.popC2P rest) :=
  h.snoc (.setC2P _ ((headC2P_length hr).trans (le_max_left _ _)))
theorem Changes.popP2C (h : Changes i s t) {f : ParentFrame} {rest : List Byte}
    (hr : headP2C t.p2c.bytes = some (f, rest)) : Changes i s (t.popP2C rest) :=
  h.snoc (.setP2C _ ((headP2C_length hr).trans (le_max_left _ _)))
theorem Changes.discard (h : Changes i s t) {f : ParentFrame} {rest : List Byte}
    (hr : headP2C t.p2c.bytes = some (f, rest)) : Changes i s (cDiscard t rest) :=
  (h.popP2C hr).setMe _
theorem Changes.closeC2P (h : Changes i s t) : Changes i s t.closeC2P := h.snoc (.setC2P _ (le_max_left _ _))
theorem Changes.closeP2C (h : Changes i s t) : Changes i s t.closeP2C := h.snoc (.setP2C _ (le_max_left _ _))

theorem Changes.ownStep (h : Changes i s t) (he : t.storeExists = true) (k : Slot) (e : Word) (d c : Byte) :
    Changes i s (t.ownStep k e d c) :=
  ((h.snoc (.editStore _ he (keepsInit_protocolStep _ _ k e d c))).setMe _).respond _

end

/-! The meanings' bodies -/

section
variable {i : Instr} (s : State)

theorem changes_createOrOpen (fail : Bool) : Changes i s (createOrOpen s fail) :=
  .ite (fun _ => (Changes.refl s).respond _) fun _ => .ite (fun _ => (Changes.refl s).setMe _) fun _ =>
    (((Changes.refl s).snoc (.createStore _ wf_nil)).snoc (.setLock none)).setMe _

theorem changes_initRegion (he : s.storeExists = true) : Changes i s (initRegion s) :=
  ((Changes.refl s).snoc (.editStore _ he ((keepsInit_fillProtected _).setAlive _ _))).setMe _

theorem changes_publish (he : s.storeExists = true) : Changes .publish s (publish s) :=
  (((Changes.refl s).snoc (.publish _ rfl he)).setMe _).respond _

theorem changes_pollInit : Changes i s (pollInit s) :=
  have again : Changes i s (pollAgain s) :=
    .ite (fun _ => ((Changes.refl s).setMe _).attachFails) fun _ => (Changes.refl s).setMe _
  .ite (fun _ => (Changes.refl s).attachFails) fun _ => .ite (fun _ => (Changes.refl s).setMe _) fun _ => again

theorem changes_claimSlot : Changes i s (claimSlot s) := by
  refine .ite (fun _ => (Changes.refl s).attachFails) fun hmine => ?_
  have he : s.storeExists = true := by
    simp only [State.storeIsMine, Bool.not_eq_false, Bool.and_eq_true] at hmine
    exact hmine.1
  cases freeSlot s.store with
  | none => exact (Changes.refl s).attachFails
  | some k => exact (((Changes.refl s).snoc (.editStore _ he (keepsInit_claim _ k))).setMe _).respond _

theorem changes_detachFrom (he : s.storeExists = true) (k : Slot) : Changes i s (detachFrom s k) :=
  have left : Changes i s { s with store := leaveSlot s.store k } :=
    (Changes.refl s).snoc (.editStore _ he (keepsInit_leaveSlot _ k))
  ((Changes.ite (fun _ => left.snoc .destroyStore) fun _ => left).setMe _).respond _

theorem changes_tryLock (d c : Byte) : Changes i s (tryLock s d c) :=
  have tried (u : State) (granted : Bool) : Changes i u (lockAcquire u granted d c) :=
    .ite (fun _ => (Changes.refl u).snoc (.setLock _)) fun _ => (Changes.refl u).respond _
  .ite (fun _ => ((Changes.refl s).snoc .draw).trans (tried _ _)) fun _ => tried s true

theorem changes_commitUpdate (he : s.storeExists = true) (k : Slot) (e : Word) (d c : Byte) :
    Changes i s (commitUpdate s k e d c) :=
  Changes.ownStep ((Changes.refl s).snoc (.setLock none)) he k e d c

theorem changes_unlinkedAnswer : Changes i s (unlinkedAnswer s) := by
  unfold unlinkedAnswer
  cases s.me.cmd with
  | update | attach | detach => exact (Changes.refl s).respond _
  | none | query | illegal => exact .refl s

theorem changes_trivialAnswer : Changes i s (trivialAnswer s) := by
  unfold trivialAnswer
  cases s.me.cmd with
  | update | detach => exact (Changes.refl s).respond _
  | attach => exact .ite (fun _ => (Changes.refl s).respond _) fun _ => (Changes.refl s).respond _
  | none | query | illegal => exact .refl s

theorem changes_pOpen (fail : Bool) : Changes i s (pOpen s fail) :=
  .ite (fun _ => (Changes.refl s).closeP2C.pipeAttachFails _) fun _ =>
    (((Changes.refl s).snoc (.createStore _ (wf_setAlive _ _ _ (wf_setInit _ _ wf_nil)))).setMe _).respond _

theorem changes_pClose : Changes i s (pClose s) :=
  (((Changes.refl s).closeP2C.snoc .destroyStore).setMe _).respond _

/-- SERVICE's answer to a frame of the child (R126). -/
theorem changes_serviceFrame (he : s.storeExists = true) (f : ChildFrame) : Changes i s (serviceFrame s f) := by
  cases f with
  | attach =>
    exact .ite (fun _ => ((Changes.refl s).snoc (.editStore _ he (keepsInit_claim _ .one))).pushP2C _)
      fun _ => (Changes.refl s).pushP2C _
  | detach => exact (Changes.refl s).snoc (.editStore _ he (keepsInit_leaveSlot _ .one))
  | update e d c =>
    exact .ite (fun _ => (((Changes.refl s).snoc (.editStore _ he
      (keepsInit_protocolStep _ _ .one e d c))).setMe _).pushP2C _) fun _ => (Changes.refl s).pushP2C _
  | junk => exact ((Changes.refl s).setMe _).pushP2C _

theorem changes_service (he : s.storeExists = true) : Changes i s (service s) := by
  obtain ⟨_, _, h⟩ | ⟨_, _, _, h⟩ | ⟨_, _, _, _, h⟩ | ⟨f, rest, hhead, _, h⟩ := service_cases s <;> rw [h]
  · exact .refl s
  · exact (Changes.refl s).snoc (.editStore _ he (keepsInit_leaveSlot _ .one))
  · exact .refl s
  · exact ((Changes.refl s).popC2P hhead).trans (changes_serviceFrame (s.popC2P rest) he f)

theorem serviceFrame_storeExists (f : ChildFrame) : (serviceFrame s f).storeExists = s.storeExists := by
  cases f with
  | attach => simp only [serviceFrame, serviceAttach]; split <;> rfl
  | detach => rfl
  | update e d c => simp only [serviceFrame, serviceUpdate]; split <;> simp [State.pushP2C]
  | junk => simp [serviceFrame, State.pushP2C]

/-- The parent's store outlives its child's frames (R126): SERVICE never destroys it. -/
theorem service_storeExists : (service s).storeExists = s.storeExists := by
  obtain ⟨_, _, h⟩ | ⟨_, _, _, h⟩ | ⟨_, _, _, _, h⟩ | ⟨f, rest, _, _, h⟩ := service_cases s <;> rw [h]
  exact serviceFrame_storeExists (s.popC2P rest) f

theorem changes_cSend : Changes i s (cSend s) := ((Changes.refl s).pushC2P _).setMe _

theorem changes_cPollAgain : Changes i s (cPollAgain s) :=
  have polled := (Changes.refl s).setMe _
  .ite (fun _ => polled.closeC2P.pipeAttachFails _) fun _ => polled

theorem changes_cRecv : Changes i s (cRecv s) := by
  unfold cRecv
  split
  next st slot rest hhead =>
    have popped := (Changes.refl (i := i) s).popP2C hhead
    exact .ite (fun _ => (popped.setMe _).respond _) fun _ => popped.closeC2P.pipeAttachFails _
  case h_2 hhead | h_3 hhead | h_4 hhead => exact ((Changes.refl s).discard hhead).trans (changes_cPollAgain _)
  next => exact .ite (fun _ => (Changes.refl s).closeC2P.pipeAttachFails _) fun _ => changes_cPollAgain s

theorem changes_cAnswer (d c : Byte) (result : Option Byte) : Changes i s (cAnswer s d c result) :=
  have requested : Changes i s (cRequest s d c) :=
    .ite (fun _ => .refl s) fun _ => ((Changes.refl s).pushC2P _).setMe _
  requested.respond _

theorem changes_cAnswered (d c nd nc fl st : Byte) : Changes i s (cAnswered s d c nd nc fl st) :=
  have answered := (Changes.refl s).setMe _
  .ite (fun _ => answered.respond _) fun _ => answered.trans (changes_cAnswer _ d c _)

theorem changes_cReceive (d c : Byte) : Changes i s (cReceive s d c) := by
  unfold cReceive
  split
  next => exact changes_cAnswer s d c none
  next hhead => exact ((Changes.refl s).popP2C hhead).trans (changes_cAnswered _ d c _ _ _ _)
  case h_3 hhead | h_4 hhead | h_5 hhead => exact ((Changes.refl s).discard hhead).trans (changes_cAnswer _ d c none)

theorem changes_cUpdate (d c : Byte) : Changes i s (cUpdate s d c) :=
  .ite (fun _ => ((Changes.refl s).closeC2P.setMe _).respond _) fun _ =>
    .ite (fun _ => changes_cReceive s d c) fun _ => changes_cAnswer s d c none

theorem changes_cClose : Changes i s (cClose s) :=
  have said : Changes i s (if s.p2c.closed then s else s.pushC2P .detach) :=
    .ite (fun _ => .refl s) fun _ => (Changes.refl s).pushC2P _
  (said.closeC2P.setMe _).respond _

end

/-! Answers: what exec does is a chain of elementary changes -/

/-- If `r` answers a next state, it comes from `s` by elementary changes within an action of `i`. -/
def AnswersBy (i : Instr) (s : State) (r : Result) : Prop := ∀ t, r = .next t → Changes i s t

section
variable {i : Instr} {s : State}

theorem answersBy_next {t : State} (h : Changes i s t) : AnswersBy i s (.next t)
  | _, rfl => h

theorem answersBy_whenEnabled {j : Instr} {r : Result} (h : AnswersBy i s r) : AnswersBy i s (whenEnabled s j r) := by
  obtain ⟨_, hw⟩ | ⟨_, hw⟩ := whenEnabled_cases s j r <;> rw [hw]
  · exact h
  · exact answersBy_next (.refl s)

theorem answersBy_needStore {t : State} (h : s.storeExists = true → Changes i s t) : AnswersBy i s (needStore s t) :=
  fun _ hu => by
    obtain ⟨he, rfl⟩ := (needStore_eq_next s t _).1 hu
    exact h he

theorem answersBy_atOwnSlot {f : Slot → State} (h : s.storeExists = true → ∀ k, Changes i s (f k)) :
    AnswersBy i s (atOwnSlot s fun k => .next (f k)) := fun _ hu => by
  obtain ⟨he, k, _, hk⟩ := (atOwnSlot_eq_next s _ _).1 hu
  exact answersBy_next (h he k) _ hk

theorem answersBy_onUpdate {k : Word → Byte → Byte → Result} (h : ∀ e d c, AnswersBy i s (k e d c)) :
    AnswersBy i s (onUpdate s k) := by
  obtain ⟨e, d, c, _, hu⟩ | ⟨_, hu⟩ := onUpdate_cases s k <;> rw [hu]
  · exact h e d c
  · exact answersBy_next (.refl s)

theorem answersBy_execCSendAttach : AnswersBy i s (execCSendAttach s) := by
  have drawn := (Changes.refl (i := i) s).snoc .draw
  unfold execCSendAttach
  split
  · exact answersBy_next <| .ite (fun _ => drawn.closeC2P.pipeAttachFails _) fun _ =>
      .ite (fun _ => drawn.trans (changes_cSend _)) fun _ => drawn
  · exact answersBy_next (.refl s)

end

/-- Every meaning waits, stops, or answers what its body makes of the state, which is a chain (R77, log 12, 21). -/
theorem answersBy_exec (i : Instr) (s : State) : AnswersBy i s (exec i s) := by
  have drawn := (Changes.refl (i := i) s).snoc .draw
  cases i with
  | attach | detach | query | update => exact answersBy_whenEnabled (answersBy_next ((Changes.refl s).setMe _))
  | attachRsp | detachRsp | queryRsp | errorRsp => exact answersBy_next ((Changes.refl s).setMe _)
  | updateRsp => exact answersBy_next (((Changes.refl s).setMe _).setMe _)
  | createOrOpen => exact answersBy_whenEnabled (answersBy_next (drawn.trans (changes_createOrOpen _ _)))
  | initRegion => exact answersBy_whenEnabled (answersBy_needStore (changes_initRegion s))
  | publish => exact answersBy_whenEnabled (answersBy_needStore (changes_publish s))
  | pollInit => exact answersBy_whenEnabled (answersBy_next (changes_pollInit s))
  | claimSlot => exact answersBy_whenEnabled (answersBy_next (changes_claimSlot s))
  | detachExec => exact answersBy_whenEnabled (answersBy_atOwnSlot (changes_detachFrom s))
  | lockAcquire => exact answersBy_whenEnabled (answersBy_onUpdate fun _ d c => answersBy_next (changes_tryLock s d c))
  | commit =>
    exact answersBy_whenEnabled (answersBy_onUpdate fun e d c =>
      answersBy_atOwnSlot fun he k => changes_commitUpdate s he k e d c)
  | unlinkedExec => exact answersBy_whenEnabled (answersBy_next (changes_unlinkedAnswer s))
  | queryExec => exact answersBy_whenEnabled (answersBy_next ((Changes.refl s).respond _))
  | pOpen => exact answersBy_whenEnabled (answersBy_next (drawn.trans (changes_pOpen _ _)))
  | pUpdate =>
    exact answersBy_whenEnabled (answersBy_onUpdate fun e d c => answersBy_needStore fun he =>
      (changes_service s he).ownStep ((service_storeExists s).trans he) .zero e d c)
  | pClose => exact answersBy_whenEnabled (answersBy_next (changes_pClose s))
  | cSendAttach => exact answersBy_execCSendAttach
  | cRecvAttach => exact answersBy_whenEnabled (answersBy_next (changes_cRecv s))
  | cUpdate =>
    exact answersBy_whenEnabled (answersBy_onUpdate fun e d c =>
      answersBy_next (((Changes.refl s).setMe _).trans (changes_cUpdate _ d c)))
  | cClose => exact answersBy_whenEnabled (answersBy_next (changes_cClose s))
  | trivialExec => exact answersBy_whenEnabled (answersBy_next (changes_trivialAnswer s))
  | illegalExec => exact answersBy_whenEnabled (answersBy_next (((Changes.refl s).setMe _).respond _))

theorem changes_of_exec {i : Instr} {s t : State} (h : exec i s = .next t) : Changes i s t := answersBy_exec i s t h

/-! The same of a side's action and of the step -/

/-- A side's action is a chain within the instruction it ran; an action without one touches the side's own fields only
(R42, R79, R157) and is a chain within any instruction. -/
theorem changes_of_runSide {s t : State} (h : runSide s = .next t) : ∃ i, Changes i s t := by
  cases hf : fetch s with
  | idle =>
    rw [runSide_idle hf] at h
    exact ⟨.query, answersBy_next (.refl s) t h⟩
  | response bytes =>
    cases hd : decodeResponse bytes with
    | ok i => exact ⟨i, changes_of_exec ((runSide_response hf hd).symm.trans h)⟩
    | error err => exact nomatch (runSide_response_error hf hd).symm.trans h
  | request bytes =>
    have popped (i : Instr) : Changes i s s.popInbox := (Changes.refl s).setMe _
    cases hd : decodeRequest bytes with
    | ok i => exact ⟨i, (popped i).trans (changes_of_exec ((runSide_request hf hd).symm.trans h))⟩
    | error err =>
      rw [runSide_request_error hf hd] at h
      exact ⟨.illegalExec, answersBy_next ((popped _).setMe _) t h⟩
  | cpuWrite isSB v =>
    rw [runSide_cpuWrite hf] at h
    exact ⟨.query, answersBy_next (((Changes.refl s).setMe _).setMe _) t h⟩
  | uop code =>
    cases hd : decodeUop code with
    | some i => exact ⟨i, changes_of_exec ((runSide_uop hf hd).symm.trans h)⟩
    | none => exact nomatch (runSide_uop_none hf hd).symm.trans h

theorem changes_of_step {s t : State} (h : step s = .next t) : ∃ i, Changes i s.chooseSide t := by
  cases hl : s.cfg.legalModePair with
  | true => exact changes_of_runSide ((step_of_legal hl).symm.trans h)
  | false => exact nomatch (step_of_not_legal hl).symm.trans h

/-- Settles O50: no elementary change writes the configuration, nor does the choice of a side. -/
theorem stepKeepsTheConfiguration : Obligations.StepKeepsTheConfiguration := by
  intro s t h
  obtain ⟨i, hc⟩ := changes_of_step h
  exact hc.keep (P := fun u => u.cfg = s.cfg) (fun _ _ huv hu => huv.cfg_eq.trans hu) (chooseSide_cfg s)

/-- Settles O56: each elementary change keeps both forms, and the choice of a side touches neither. -/
theorem stepKeepsTheFormOfStoreAndFifos : Obligations.StepKeepsTheFormOfStoreAndFifos := by
  intro s t h
  obtain ⟨i, hc⟩ := changes_of_step h
  exact ⟨fun hs => hc.keep (fun _ _ huv => huv.storeCanonical) (by simpa [State.storeCanonical] using hs),
    fun hs => hc.keep (fun _ _ huv => huv.fifosBounded) (by simpa [State.fifosBounded] using hs)⟩

/-- Settles O55: every elementary change but PUBLISH's keeps INIT while the store stays, and S_GEN tells whether it did. -/
theorem onlyPublishWritesInit : Obligations.OnlyPublishWritesInit := by
  intro i s t h hwf hs ht hgen hi
  have hkept : sameStoreKeepsInit s t :=
    (changes_of_exec h).keep (fun _ _ huv => huv.sameStoreKeepsInit hi) ⟨le_rfl, fun _ _ => ⟨hwf, rfl⟩⟩
  have hinit : t.store.read 0x00 = s.store.read 0x00 := (hkept.2 ht hgen).2
  simp [State.readByte, hs, ht, hinit]

end Sys2Proof.Machine
end

section
/-! PROOFS. The shared memory's lock (20_memory.md): which operations leave LOCK_OWNER as it is, the three that move it,
and the statement O53. -/

namespace Sys2Proof.Machine

/-! What leaves LOCK_OWNER unchanged: the shared operations -/

section
variable (s : State)

@[simp] theorem pushC2P_lockOwner (f : Instr) : (s.pushC2P f).lockOwner = s.lockOwner := rfl
@[simp] theorem pushP2C_lockOwner (f : Instr) : (s.pushP2C f).lockOwner = s.lockOwner := rfl
@[simp] theorem popC2P_lockOwner (rest : List Byte) : (s.popC2P rest).lockOwner = s.lockOwner := rfl
@[simp] theorem popP2C_lockOwner (rest : List Byte) : (s.popP2C rest).lockOwner = s.lockOwner := rfl
@[simp] theorem closeC2P_lockOwner : s.closeC2P.lockOwner = s.lockOwner := rfl
@[simp] theorem closeP2C_lockOwner : s.closeP2C.lockOwner = s.lockOwner := rfl
@[simp] theorem issue_lockOwner (cmd : Cmd) : (s.issue cmd).lockOwner = s.lockOwner := setMe_lockOwner s _
@[simp] theorem passThrough_lockOwner (d c st : Byte) : (s.passThrough d c st).lockOwner = s.lockOwner :=
  respond_lockOwner s _
@[simp] theorem cDiscard_lockOwner (rest : List Byte) : (cDiscard s rest).lockOwner = s.lockOwner :=
  setMe_lockOwner _ _
@[simp] theorem attachFails_lockOwner : s.attachFails.lockOwner = s.lockOwner := by simp [State.attachFails]
@[simp] theorem pipeAttachFails_lockOwner (st : Byte) : (s.pipeAttachFails st).lockOwner = s.lockOwner := by
  simp [State.pipeAttachFails]
@[simp] theorem cAttachFails_lockOwner (st : Byte) : (cAttachFails s st).lockOwner = s.lockOwner := by
  simp [cAttachFails]
@[simp] theorem ownStep_lockOwner (k : Slot) (e : Word) (d c : Byte) :
    (s.ownStep k e d c).lockOwner = s.lockOwner := by
  simp [State.ownStep]

/-! The meanings' bodies that leave it unchanged -/

theorem initRegion_lockOwner : (initRegion s).lockOwner = s.lockOwner := by simp [initRegion]

theorem publish_lockOwner : (publish s).lockOwner = s.lockOwner := by simp [publish]

theorem pollInit_lockOwner : (pollInit s).lockOwner = s.lockOwner := by
  unfold pollInit pollAgain
  split_ifs <;> simp

theorem claimSlot_lockOwner : (claimSlot s).lockOwner = s.lockOwner := by
  unfold claimSlot
  split
  · exact attachFails_lockOwner s
  · split <;> simp

/-- Leaving a slot does not release the lock, not even where it destroys the store (R88). -/
theorem detachFrom_lockOwner (k : Slot) : (detachFrom s k).lockOwner = s.lockOwner := by
  simp only [detachFrom, respond_lockOwner, setMe_lockOwner]
  split <;> rfl

theorem unlinkedAnswer_lockOwner : (unlinkedAnswer s).lockOwner = s.lockOwner := by
  unfold unlinkedAnswer
  cases s.me.cmd <;> simp

theorem trivialAnswer_lockOwner : (trivialAnswer s).lockOwner = s.lockOwner := by
  unfold trivialAnswer
  cases s.me.cmd with
  | attach => simp only; split <;> exact respond_lockOwner s _
  | update | detach | none | query | illegal => simp

theorem pOpen_lockOwner (fail : Bool) : (pOpen s fail).lockOwner = s.lockOwner := by
  unfold pOpen
  split <;> simp

theorem pClose_lockOwner : (pClose s).lockOwner = s.lockOwner := by simp [pClose]

theorem serviceFrame_lockOwner (f : ChildFrame) : (serviceFrame s f).lockOwner = s.lockOwner := by
  cases f with
  | attach => simp only [serviceFrame, serviceAttach]; split <;> simp
  | update e d c => simp only [serviceFrame, serviceUpdate]; split <;> simp
  | detach => rfl
  | junk => simp [serviceFrame]

theorem service_lockOwner : (service s).lockOwner = s.lockOwner := by
  obtain ⟨_, _, h⟩ | ⟨_, _, _, h⟩ | ⟨_, _, _, _, h⟩ | ⟨f, rest, _, _, h⟩ := service_cases s <;> rw [h]
  exact serviceFrame_lockOwner (s.popC2P rest) f

theorem cSend_lockOwner : (cSend s).lockOwner = s.lockOwner := by simp [cSend]

theorem cSendFails_lockOwner : (cSendFails s).lockOwner = s.lockOwner := by simp [cSendFails]

@[simp] theorem cPollAgain_lockOwner : (cPollAgain s).lockOwner = s.lockOwner := by
  simp only [cPollAgain]
  split <;> simp

theorem cRecv_lockOwner : (cRecv s).lockOwner = s.lockOwner := by
  unfold cRecv
  split
  case h_1 | h_5 => split <;> simp
  all_goals simp

@[simp] theorem cRequest_lockOwner (d c : Byte) : (cRequest s d c).lockOwner = s.lockOwner := by
  unfold cRequest
  split <;> simp

@[simp] theorem cAnswer_lockOwner (d c : Byte) (result : Option Byte) :
    (cAnswer s d c result).lockOwner = s.lockOwner := by
  simp [cAnswer]

@[simp] theorem cAnswered_lockOwner (d c nd nc fl st : Byte) :
    (cAnswered s d c nd nc fl st).lockOwner = s.lockOwner := by
  simp only [cAnswered]
  split <;> simp

theorem cReceive_lockOwner (d c : Byte) : (cReceive s d c).lockOwner = s.lockOwner := by
  unfold cReceive
  split <;> simp

theorem cUpdate_lockOwner (d c : Byte) : (cUpdate s d c).lockOwner = s.lockOwner := by
  unfold cUpdate cEof
  split_ifs
  · simp
  · exact cReceive_lockOwner s d c
  · simp

theorem cClose_lockOwner : (cClose s).lockOwner = s.lockOwner := by
  simp only [cClose, respond_lockOwner, setMe_lockOwner, closeC2P_lockOwner]
  split <;> simp

end

/-! What holds of the state a meaning answers -/

/-- If `r` answers a next state, `P` holds of that state. -/
def EndsIn (P : State → Prop) (r : Result) : Prop := ∀ t, r = .next t → P t

section
variable {P : State → Prop} {s : State}

theorem endsIn_next {t : State} (h : P t) : EndsIn P (.next t)
  | _, rfl => h

theorem endsIn_whenEnabled {i : Instr} {r : Result} (hs : P s) (hr : enabled s i = true → EndsIn P r) :
    EndsIn P (whenEnabled s i r) := by
  obtain ⟨hon, hw⟩ | ⟨_, hw⟩ := whenEnabled_cases s i r <;> rw [hw]
  · exact hr hon
  · exact endsIn_next hs

theorem endsIn_needStore {t : State} (h : P t) : EndsIn P (needStore s t) := fun _ hu => by
  obtain ⟨_, rfl⟩ := (needStore_eq_next s t _).1 hu
  exact h

theorem endsIn_atOwnSlot {f : Slot → State} (h : ∀ k, P (f k)) : EndsIn P (atOwnSlot s fun k => .next (f k)) :=
  fun _ hu => by
    obtain ⟨_, k, _, hk⟩ := (atOwnSlot_eq_next s _ _).1 hu
    exact endsIn_next (h k) _ hk

theorem endsIn_onUpdate {k : Word → Byte → Byte → Result} (hs : P s) (h : ∀ e d c, EndsIn P (k e d c)) :
    EndsIn P (onUpdate s k) := by
  obtain ⟨e, d, c, _, hu⟩ | ⟨_, hu⟩ := onUpdate_cases s k <;> rw [hu]
  · exact h e d c
  · exact endsIn_next hs

end

/-! How LOCK_OWNER moves (R54) -/

/-- What `i`, run in `s` by the side that has the turn, can make of LOCK_OWNER. -/
inductive LockMove (i : Instr) (s : State) (o : Option Side) : Prop where
  | kept (ho : o = s.lockOwner)
  | created (hi : i = .createOrOpen) (hno : s.storeExists = false) (ho : o = none)
  | acquired (hi : i = .lockAcquire) (hfree : s.lockOwner = none) (ho : o = some s.turn)
  | released (hi : i = .commit) (hmine : s.lockOwner = some s.turn) (ho : o = none)

/-- CREATE_OR_OPEN writes LOCK_OWNER only with the store it creates (R82). -/
theorem lockMove_createOrOpen (s : State) (fail : Bool) :
    LockMove .createOrOpen s (createOrOpen s.afterDraw fail).lockOwner := by
  unfold createOrOpen
  split_ifs with _ hexists
  · exact .kept (by simp)
  · exact .kept (by simp)
  · exact .created rfl (by simpa using hexists) (by simp)

/-- A try takes the lock only where it is free, and for the side that tries (R56, R110). -/
theorem lockAcquire_lockOwner (s : State) (granted : Bool) (d c : Byte) :
    (lockAcquire s granted d c).lockOwner = s.lockOwner ∨
    (s.lockOwner = none ∧ (lockAcquire s granted d c).lockOwner = some s.turn) := by
  unfold lockAcquire
  split_ifs with hfree
  · exact .inr ⟨hfree.1, rfl⟩
  · exact .inl (passThrough_lockOwner s d c _)

theorem lockMove_tryLock (s : State) (d c : Byte) : LockMove .lockAcquire s (tryLock s d c).lockOwner := by
  unfold tryLock
  split
  · obtain hkept | ⟨hfree, htaken⟩ := lockAcquire_lockOwner s.afterDraw s.drawn d c
    · exact .kept (by simpa using hkept)
    · exact .acquired rfl (by simpa using hfree) (by simpa using htaken)
  · obtain hkept | ⟨hfree, htaken⟩ := lockAcquire_lockOwner s true d c
    · exact .kept hkept
    · exact .acquired rfl hfree htaken

theorem commitUpdate_lockOwner (s : State) (k : Slot) (e : Word) (d c : Byte) :
    (commitUpdate s k e d c).lockOwner = none :=
  ownStep_lockOwner _ k e d c

theorem lockOwner_of_enabled_commit {s : State} (h : enabled s .commit = true) : s.lockOwner = some s.turn :=
  (of_decide_eq_true h).2.2

theorem endsIn_kept_execCSendAttach (s : State) :
    EndsIn (fun t => t.lockOwner = s.lockOwner) (execCSendAttach s) := by
  unfold execCSendAttach
  split_ifs
  · exact endsIn_next (by simp [cSendFails_lockOwner])
  · exact endsIn_next (by simp [cSend_lockOwner])
  · exact endsIn_next (afterDraw_lockOwner s)
  · exact endsIn_next rfl

/-- Everything an action can do to LOCK_OWNER: only CREATE_OR_OPEN, LOCK_ACQUIRE and COMMIT write it. -/
theorem lockMove_of_exec {i : Instr} {s t : State} (h : exec i s = .next t) : LockMove i s t.lockOwner := by
  suffices hends : EndsIn (fun u => LockMove i s u.lockOwner) (exec i s) from hends t h
  have guarded {r : Result} (hr : enabled s i = true → EndsIn (fun u => LockMove i s u.lockOwner) r) :
      EndsIn (fun u => LockMove i s u.lockOwner) (whenEnabled s i r) := endsIn_whenEnabled (.kept rfl) hr
  cases i with
  | attach | detach | query | update => exact guarded fun _ => endsIn_next (.kept (issue_lockOwner s _))
  | attachRsp | detachRsp | queryRsp | errorRsp => exact endsIn_next (.kept (receive_lockOwner s _))
  | updateRsp => exact endsIn_next (.kept (by simp))
  | createOrOpen => exact guarded fun _ => endsIn_next (lockMove_createOrOpen s _)
  | initRegion => exact guarded fun _ => endsIn_needStore (.kept (initRegion_lockOwner s))
  | publish => exact guarded fun _ => endsIn_needStore (.kept (publish_lockOwner s))
  | pollInit => exact guarded fun _ => endsIn_next (.kept (pollInit_lockOwner s))
  | claimSlot => exact guarded fun _ => endsIn_next (.kept (claimSlot_lockOwner s))
  | detachExec => exact guarded fun _ => endsIn_atOwnSlot fun k => .kept (detachFrom_lockOwner s k)
  | lockAcquire =>
    exact guarded fun _ => endsIn_onUpdate (.kept rfl) fun _ d c => endsIn_next (lockMove_tryLock s d c)
  | commit =>
    exact guarded fun hon => endsIn_onUpdate (.kept rfl) fun e d c => endsIn_atOwnSlot fun k =>
      .released rfl (lockOwner_of_enabled_commit hon) (commitUpdate_lockOwner s k e d c)
  | unlinkedExec => exact guarded fun _ => endsIn_next (.kept (unlinkedAnswer_lockOwner s))
  | queryExec => exact guarded fun _ => endsIn_next (.kept (respond_lockOwner s _))
  | pOpen => exact guarded fun _ => endsIn_next (.kept (by simp [pOpen_lockOwner]))
  | pUpdate =>
    exact guarded fun _ => endsIn_onUpdate (.kept rfl) fun e d c =>
      endsIn_needStore (.kept (by simp [service_lockOwner]))
  | pClose => exact guarded fun _ => endsIn_next (.kept (pClose_lockOwner s))
  | cSendAttach => exact fun u hu => .kept (endsIn_kept_execCSendAttach s u hu)
  | cRecvAttach => exact guarded fun _ => endsIn_next (.kept (cRecv_lockOwner s))
  | cUpdate =>
    exact guarded fun _ => endsIn_onUpdate (.kept rfl) fun e d c =>
      endsIn_next (.kept ((cUpdate_lockOwner _ d c).trans (setMe_lockOwner s _)))
  | cClose => exact guarded fun _ => endsIn_next (.kept (cClose_lockOwner s))
  | trivialExec => exact guarded fun _ => endsIn_next (.kept (trivialAnswer_lockOwner s))
  | illegalExec => exact guarded fun _ => endsIn_next (.kept (by simp))

/-- Settles O53: each of the four moves of LOCK_OWNER obeys the three clauses, and the creating one is excepted. -/
theorem lockChangesHandsByTheRule : Obligations.LockChangesHandsByTheRule := by
  intro i s t h hcreates
  cases lockMove_of_exec h with
  | kept ho => exact ⟨fun _ => ho, fun _ => .inl ho, fun hfree => .inl (ho.trans hfree)⟩
  | created hi hno => exact absurd ⟨hi, hno⟩ hcreates
  | acquired hi hfree ho => exact ⟨by simp [hfree], by simp [hfree], fun _ => .inr ⟨hi, ho⟩⟩
  | released hi hmine ho =>
    exact ⟨by simp [hmine, (otherSide_ne s.turn).symm], fun _ => .inr ⟨hi, ho⟩, by simp [hmine]⟩

end Sys2Proof.Machine
end

section
/-! PROOFS. The encoding (30_encoding.md): operands and their bytes, whole frames, the frame decoder, the trace codes,
and the statements O1, O2 and O3. -/

namespace Sys2Proof

/-! Operands and their bytes (R70, R73, R74, R76) -/

/-- The four bytes of a 32-bit operand, the least significant first (R76). -/
theorem getLsbD_leWord (f1 f2 f3 f4 : Byte) (k : Nat) :
    (leWord f1 f2 f3 f4).getLsbD k =
      if k < 8 then f1.getLsbD k else if k < 16 then f2.getLsbD (k - 8)
      else if k < 24 then f3.getLsbD (k - 16) else f4.getLsbD (k - 24) := by
  grind [leWord, BitVec.getLsbD_setWidth]

theorem leWord_wordByte (e : Word) : leWord (wordByte e 0) (wordByte e 1) (wordByte e 2) (wordByte e 3) = e := by
  apply BitVec.eq_of_getLsbD_eq
  grind [wordByte, getLsbD_leWord]

theorem wordByte_leWord (f1 f2 f3 f4 : Byte) :
    wordByte (leWord f1 f2 f3 f4) 0 = f1 ∧ wordByte (leWord f1 f2 f3 f4) 1 = f2 ∧
    wordByte (leWord f1 f2 f3 f4) 2 = f3 ∧ wordByte (leWord f1 f2 f3 f4) 3 = f4 := by
  refine ⟨?_, ?_, ?_, ?_⟩ <;> ext k hk <;> grind [wordByte, getLsbD_leWord]

theorem encode_update_leWord (f1 f2 f3 f4 d c : Byte) :
    encode (.update (leWord f1 f2 f3 f4) d c) = [0x10, f1, f2, f3, f4, d, c] := by
  simp [encode, wordByte_leWord]

theorem flagsByte_bits : ∀ irq disc : Bool,
    (flagsByte irq disc).extractLsb' 2 6 = 0 ∧ (flagsByte irq disc).getLsbD 0 = irq ∧
    (flagsByte irq disc).getLsbD 1 = disc := by
  decide

/-- Bits 7:2 of the flags are reserved (R74), so bits 1 and 0 are all of them. -/
theorem flagsByte_of_reserved_zero :
    ∀ b : Byte, b.extractLsb' 2 6 = 0 → flagsByte (b.getLsbD 0) (b.getLsbD 1) = b := by
  decide

/-! Whole frames (R66) -/

/-- An opcode byte with as many operand bytes as its frame has (R67 to R75). -/
inductive WholeFrame : Byte → List Byte → Prop where
  | attach : WholeFrame 0x01 []
  | detach : WholeFrame 0x04 []
  | query : WholeFrame 0x05 []
  | update (f1 f2 f3 f4 d c : Byte) : WholeFrame 0x10 [f1, f2, f3, f4, d, c]
  | attachRsp (status slot : Byte) : WholeFrame 0x81 [status, slot]
  | detachRsp (status : Byte) : WholeFrame 0x84 [status]
  | queryRsp (disc : Byte) : WholeFrame 0x85 [disc]
  | updateRsp (nd nc flags status : Byte) : WholeFrame 0x90 [nd, nc, flags, status]
  | errorRsp (status : Byte) : WholeFrame 0xFF [status]

theorem wholeFrame_of_frameLength {op : Byte} {a : List Byte} (h : frameLength op = some (a.length + 1)) :
    WholeFrame op a := by
  unfold frameLength at h
  split_ifs at h <;> subst op <;> rw [Option.some.injEq] at h
  · match a, h with | [], _ => exact .attach
  · match a, h with | [], _ => exact .detach
  · match a, h with | [], _ => exact .query
  · match a, h with | [f1, f2, f3, f4, d, c], _ => exact .update f1 f2 f3 f4 d c
  · match a, h with | [status, slot], _ => exact .attachRsp status slot
  · match a, h with | [status], _ => exact .detachRsp status
  · match a, h with | [disc], _ => exact .queryRsp disc
  · match a, h with | [nd, nc, flags, status], _ => exact .updateRsp nd nc flags status
  · match a, h with | [status], _ => exact .errorRsp status

/-- R73: the disc byte is 0x00 or 0x01. -/
theorem frameOperands_queryRsp (disc : Byte) :
    frameOperands 0x85 [disc] =
      if disc = 0x01 then .ok (.queryRsp true)
      else if disc = 0x00 then .ok (.queryRsp false)
      else .error .reservedBits := rfl

/-- R74: bits 7:2 of the flags are 0. -/
theorem frameOperands_updateRsp (nd nc flags status : Byte) :
    frameOperands 0x90 [nd, nc, flags, status] =
      if flags.extractLsb' 2 6 = 0 then .ok (.updateRsp nd nc (flags.getLsbD 0) (flags.getLsbD 1) status)
      else .error .reservedBits := rfl

theorem encode_of_frameOperands {op : Byte} {a : List Byte} {i : Instr} (h : WholeFrame op a)
    (hi : frameOperands op a = .ok i) : i.kind ≠ .uop ∧ op :: a = encode i := by
  cases h with
  | attach | detach | query | attachRsp | detachRsp | errorRsp => cases hi; exact ⟨nofun, rfl⟩
  | update f1 f2 f3 f4 d c => cases hi; exact ⟨nofun, (encode_update_leWord f1 f2 f3 f4 d c).symm⟩
  | queryRsp disc =>
    rw [frameOperands_queryRsp] at hi
    split_ifs at hi with h1 h0
    · cases hi; subst h1; exact ⟨nofun, rfl⟩
    · cases hi; subst h0; exact ⟨nofun, rfl⟩
  | updateRsp nd nc flags status =>
    rw [frameOperands_updateRsp] at hi
    split_ifs at hi with hflags
    cases hi
    exact ⟨nofun, by rw [encode, flagsByte_of_reserved_zero flags hflags]⟩

/-! The frame decoder (R65, R66) -/

theorem decodeFrame_cons_eq_ok_iff {op : Byte} {a : List Byte} {i : Instr} :
    decodeFrame (op :: a) = .ok i ↔ frameLength op = some (a.length + 1) ∧ frameOperands op a = .ok i := by
  cases hn : frameLength op with
  | none => simp [decodeFrame, hn]
  | some n =>
    obtain hlt | rfl | hgt := Nat.lt_trichotomy (a.length + 1) n
    · simp [decodeFrame, hn, hlt, hlt.ne']
    · simp [decodeFrame, hn]
    · simp [decodeFrame, hn, hgt.not_gt, hgt, hgt.ne]

theorem decodeFrame_encode {i : Instr} (h : i.kind ≠ .uop) : decodeFrame (encode i) = .ok i := by
  cases i with
  | attach | detach | query | attachRsp | detachRsp | errorRsp => rfl
  | update e d c => exact congrArg (fun w => Except.ok (Instr.update w d c)) (leWord_wordByte e)
  | queryRsp disc => cases disc <;> rfl
  | updateRsp nd nc irq disc status =>
    obtain ⟨hreserved, hirq, hdisc⟩ := flagsByte_bits irq disc
    exact decodeFrame_cons_eq_ok_iff.2
      ⟨rfl, by rw [frameOperands_updateRsp, if_pos hreserved, hirq, hdisc]⟩
  | _ => exact absurd rfl h

theorem decodeFrame_eq_ok_iff {bs : List Byte} {i : Instr} :
    decodeFrame bs = .ok i ↔ i.kind ≠ .uop ∧ bs = encode i := by
  constructor
  · intro h
    cases bs with
    | nil => cases h
    | cons op a =>
      obtain ⟨hlength, hoperands⟩ := decodeFrame_cons_eq_ok_iff.1 h
      exact encode_of_frameOperands (wholeFrame_of_frameLength hlength) hoperands
  · rintro ⟨hk, rfl⟩
    exact decodeFrame_encode hk

/-! The trace codes (R77) -/

/-- A code and its µ-op, over the 256 codes. -/
theorem encode_of_decodeUop : ∀ code : Byte, ∀ i ∈ decodeUop code, encode i = [code] := by
  decide

theorem encode_uop {i : Instr} (h : i.kind = .uop) : encode i = [Machine.uopCode i] := by
  cases i with
  | attach | detach | query | update | attachRsp | detachRsp | queryRsp | updateRsp | errorRsp =>
    simp [Instr.kind] at h
  | _ => rfl

theorem decode_eq_decodeFrame {bs : List Byte} (h : ∀ code, bs = [code] → decodeUop code = none) :
    decode bs = decodeFrame bs := by
  match bs with
  | [] => rfl
  | [code] => simp only [decode, h code rfl]
  | _ :: _ :: _ => rfl

/-- No one-byte frame is a trace code (R66, R77). -/
theorem decodeUop_of_encode_frame {i : Instr} {code : Byte} (hk : i.kind ≠ .uop) (h : encode i = [code]) :
    decodeUop code = none := by
  cases i with
  | attach | detach | query => cases h; rfl
  | update | attachRsp | detachRsp | queryRsp | updateRsp | errorRsp => cases h
  | _ => exact absurd rfl hk

theorem decode_encode (i : Instr) : decode (encode i) = .ok i := by
  by_cases hk : i.kind = .uop
  · rw [encode_uop hk]
    simp only [decode, Machine.decodeUop_uopCode hk]
  · rw [decode_eq_decodeFrame fun _ => decodeUop_of_encode_frame hk]
    exact decodeFrame_encode hk

theorem encode_of_decode {bs : List Byte} {i : Instr} (h : decode bs = .ok i) : bs = encode i := by
  unfold decode at h
  split at h
  · split at h
    case h_1 hcode => cases h; exact (encode_of_decodeUop _ _ hcode).symm
    case h_2 => exact (decodeFrame_eq_ok_iff.1 h).2
  · exact (decodeFrame_eq_ok_iff.1 h).2

/-- Settles O1: a byte string that decodes is a trace code or a whole frame with its reserved bits clear. -/
theorem decodeIffEncode : Obligations.DecodeIffEncode := fun _ i =>
  ⟨encode_of_decode, fun h => h ▸ decode_encode i⟩

/-- Settles O2: each word is the encoding of what it stands for. -/
theorem sampleWordsDecode : Obligations.SampleWordsDecode :=
  ⟨decode_encode (.update 4 0xAB 0x81), decode_encode (.update 0x12345678 0x00 0x00),
    decode_encode (.updateRsp 0xAB 0x00 true false 0x00), decode_encode (.updateRsp 0xAB 0x81 false true 0x03),
    decode_encode (.attachRsp 0x01 0xFF), decode_encode .commit⟩

/-! The frames a host may hand over (R79) -/

theorem decodeRequest_eq_ok_iff {bs : List Byte} {i : Instr} :
    decodeRequest bs = .ok i ↔ decodeFrame bs = .ok i ∧ i.kind = .request := by
  cases hd : decodeFrame bs with
  | error err => simp [decodeRequest, hd]
  | ok j =>
    by_cases hk : j.kind = .request
    · simp only [decodeRequest, hd, if_pos hk, Except.ok.injEq]
      exact ⟨fun h => ⟨h, h ▸ hk⟩, And.left⟩
    · simp only [decodeRequest, hd, if_neg hk, Except.ok.injEq]
      exact ⟨nofun, fun ⟨h, hi⟩ => absurd (h ▸ hi) hk⟩

theorem decodeRequest_encode {i : Instr} (h : i.kind = .request) : decodeRequest (encode i) = .ok i :=
  decodeRequest_eq_ok_iff.2 ⟨decodeFrame_encode (by rw [h]; nofun), h⟩

/-- The opcodes and lengths of the four requests (R66 to R70). -/
theorem decodeRequest_accepts_iff (op : Byte) (a : List Byte) :
    (∃ i, decodeRequest (op :: a) = .ok i) ↔
      ((op = 0x01 ∨ op = 0x04 ∨ op = 0x05) ∧ a.length + 1 = 1) ∨ (op = 0x10 ∧ a.length + 1 = 7) := by
  constructor
  · rintro ⟨i, hi⟩
    obtain ⟨hframe, hk⟩ := decodeRequest_eq_ok_iff.1 hi
    have hbytes := (decodeFrame_eq_ok_iff.1 hframe).2
    cases i with
    | attach | detach | query | update => cases hbytes; simp
    | _ => cases hk
  · rintro (⟨rfl | rfl | rfl, ha⟩ | ⟨rfl, ha⟩)
    · match a, ha with | [], _ => exact ⟨_, decodeRequest_encode (i := .attach) rfl⟩
    · match a, ha with | [], _ => exact ⟨_, decodeRequest_encode (i := .detach) rfl⟩
    · match a, ha with | [], _ => exact ⟨_, decodeRequest_encode (i := .query) rfl⟩
    · match a, ha with
      | [f1, f2, f3, f4, d, c], _ =>
        exact ⟨_, encode_update_leWord f1 f2 f3 f4 d c ▸ decodeRequest_encode rfl⟩

theorem decodeRequest_rejects_iff (bs : List Byte) :
    (∃ err, decodeRequest bs = .error err) ↔ ¬ ∃ i, decodeRequest bs = .ok i := by
  cases decodeRequest bs <;> simp

/-- Settles O3: a rejected frame is one that is none of the four requests. -/
theorem rejectedRequestsAreTheIllegalOnes : Obligations.RejectedRequestsAreTheIllegalOnes := by
  refine ⟨⟨.empty, rfl⟩, fun op a => ?_⟩
  rw [decodeRequest_rejects_iff, decodeRequest_accepts_iff]
  have h10 : op = 0x10 → op ≠ 0x01 ∧ op ≠ 0x04 ∧ op ≠ 0x05 := by rintro rfl; decide
  tauto

end Sys2Proof
end

section
/-! PROOFS. Enabled µ-ops and the sequencer's table (30_encoding.md R77, R78), the two frames whose reception does more
than reach a port (R74, R79), and the statements O6, O8 and O12. -/

namespace Sys2Proof.Machine

/-! The table of R78 where a condition of R77 holds -/

theorem exists_update_of_isUpdate {cmd : Cmd} (h : cmd.isUpdate = true) : ∃ e d c, cmd = .update e d c := by
  cases cmd with
  | update e d c => exact ⟨e, d, c, rfl⟩
  | _ => cases h

section
variable {s : State} {mode : Mode} {cmd : Cmd} {seq : Seq}

theorem selected_eq (hm : s.mode = mode) (hc : s.me.cmd = cmd) (hq : s.me.seq = seq) :
    s.selected = select mode (decide (s.lockOwner = some s.turn)) cmd seq := by
  rw [State.selected, hm, hc, hq]

theorem select_of_trivialPair {holds : Bool} (h : trivialPair mode cmd seq = true) :
    select mode holds cmd seq = some .trivialExec := by
  cases mode with
  | unlinked => cases h
  | shm | pipeParent | pipeChild =>
    cases cmd with
    | none | query | illegal => cases seq <;> cases h
    | attach | detach | update => cases seq <;> cases h <;> rfl

/-- In UNLINKED mode each of the three commands has one µ-op, whatever L.SEQ is. -/
theorem select_unlinked {holds : Bool} (h : cmd = .attach ∨ cmd = .detach ∨ cmd.isUpdate = true) :
    select .unlinked holds cmd seq = some .unlinkedExec := by
  obtain rfl | rfl | hu := h
  · rfl
  · rfl
  · obtain ⟨e, d, c, rfl⟩ := exists_update_of_isUpdate hu
    rfl

/-- The UPDATE of an attached SHM side: the lock decides (R78). -/
theorem selected_of_shm_update (hm : s.mode = .shm) (hu : s.me.cmd.isUpdate = true) (hq : s.me.seq = .attached) :
    s.selected = some (if decide (s.lockOwner = some s.turn) then .commit else .lockAcquire) := by
  obtain ⟨e, d, c, hc⟩ := exists_update_of_isUpdate hu
  exact selected_eq hm hc hq

end

/-- Settles O8: a condition of R77 fixes the row of R78, with the joining states' ATTACH (R31, R32) and the holder's
attachment where R77 does not name them. -/
theorem enabledUopIsSelected : Obligations.EnabledUopIsSelected := by
  intro s i hk hon hjoins hholds
  cases i with
  | attach | detach | query | update | attachRsp | detachRsp | queryRsp | updateRsp | errorRsp => cases hk
  | createOrOpen | pOpen | pClose | cRecvAttach =>
    obtain ⟨hm, hc, hq⟩ := of_decide_eq_true hon
    exact selected_eq hm hc hq
  | detachExec | cSendAttach | cClose =>
    obtain ⟨hm, hc, hq, _⟩ := of_decide_eq_true hon
    exact selected_eq hm hc hq
  | initRegion | publish | pollInit =>
    obtain ⟨hm, hq⟩ := of_decide_eq_true hon
    exact selected_eq hm (hjoins (by simp [hq])) hq
  | claimSlot =>
    obtain ⟨hm, hq, _⟩ := of_decide_eq_true hon
    exact selected_eq hm (hjoins (by simp [hq])) hq
  | lockAcquire =>
    obtain ⟨hm, hu, hq, hlock⟩ := of_decide_eq_true hon
    rw [selected_of_shm_update hm hu hq, if_neg (by simpa using hlock)]
  | commit =>
    obtain ⟨hm, hu, hlock⟩ := of_decide_eq_true hon
    rw [selected_of_shm_update hm hu (hholds hlock), if_pos (decide_eq_true hlock)]
  | pUpdate | cUpdate =>
    obtain ⟨hm, hu, hq⟩ := of_decide_eq_true hon
    obtain ⟨e, d, c, hc⟩ := exists_update_of_isUpdate hu
    exact selected_eq hm hc hq
  | unlinkedExec =>
    obtain ⟨hm, hc⟩ := of_decide_eq_true hon
    exact (selected_eq hm rfl rfl).trans (select_unlinked hc)
  | queryExec | illegalExec => exact selected_eq rfl (of_decide_eq_true hon) rfl
  | trivialExec => exact select_of_trivialPair hon

/-! Frames received (R74, R79) -/

/-- An illegal frame that has left the inbox (R117, log 10). -/
theorem popInbox_takeIllegal (s : State) :
    s.popInbox.takeIllegal = s.setMe { s.me with
      cmd := .illegal
      host := { s.me.host with inbox := s.me.host.inbox.tail } } := by
  simp [State.takeIllegal, State.issue, State.popInbox]

/-- Settles O6: with legal modes the step is the chosen side's, which issues ILLEGAL. -/
theorem illegalFrameIsHeldForIllegalExec : Obligations.IllegalFrameIsHeldForIllegalExec := by
  intro s bytes err hlegal hf hd
  refine ⟨_, (step_of_legal hlegal).trans (runSide_request_error hf hd), ?_⟩
  rw [popInbox_takeIllegal]
  exact localOnly_setMe _ _

/-- The reception of an UPDATE_RSP and its write-back as one change of the acting side (R81, R118 items 2 to 4). -/
theorem exec_updateRsp (s : State) (nd nc : Byte) (irq disc : Bool) (st : Byte) :
    exec (.updateRsp nd nc irq disc st) s = .next (s.setMe { s.me with host := { s.me.host with
      response := none
      received := s.me.host.received ++ [ [0x90, nd, nc, flagsByte irq disc, st] ]
      sb := nd
      sc := nc
      lastDisc := disc
      serialRequests := s.me.host.serialRequests + (if irq then 1 else 0) } }) := by
  cases irq <;> simp [exec, execUpdateRsp, State.receive, HostState.writeBack, encode]

/-- Settles O12: the bus then reads what the write-back left in the host (R118 item 4). -/
theorem updateResponseIsWrittenBack : Obligations.UpdateResponseIsWrittenBack := by
  intro s nd nc irq disc st
  refine ⟨_, exec_updateRsp s nd nc irq disc st, localOnly_setMe _ _, ?_⟩
  rw [setMe_me, HostState.busReadSB]

end Sys2Proof.Machine
end

section
/-! PROOFS. The shared transport (40_transport.md): the bytes STEP leaves alone, what the attach handshake and detach make
of the store and the acting side, and the statements O13 to O18 and O29. -/

namespace Sys2Proof.Machine

/-! The bytes no STEP writes (R89, R91) -/

/-- The offsets outside the protected region's DATA, CONTROL, PHASE and COUNTER bytes. -/
def StepLeaves (a : Nat) : Prop := a ≤ 0x04 ∨ a = 0x08 ∨ 0x0E ≤ a

theorem StepLeaves.ne_slotByte {a : Nat} (h : StepLeaves a) (i : Slot) {k : Nat} (hk : 0 < k) (hk' : k < 4) :
    a ≠ i.base + k := by
  cases i <;> simp only [StepLeaves, Slot.base] at * <;> omega

theorem StepLeaves.ne_counter {a : Nat} (h : StepLeaves a) : a ≠ 0x0C ∧ a ≠ 0x0D := by
  simp only [StepLeaves] at h
  omega

theorem stepLeaves_alive (i : Slot) : StepLeaves (i.base + 0) := by
  cases i <;> simp [StepLeaves, Slot.base]

/-- From a canonical store `m`, `n` is a canonical store with the same bytes where no STEP writes. -/
def WritesAsStep (m n : Memory) : Prop := m.wf = true → n.wf = true ∧ ∀ a, StepLeaves a → n.read a = m.read a

section
variable {m n k : Memory}

theorem WritesAsStep.refl (m : Memory) : WritesAsStep m m := fun h => ⟨h, fun _ _ => rfl⟩

theorem WritesAsStep.trans (hmn : WritesAsStep m n) (hnk : WritesAsStep n k) : WritesAsStep m k := fun hm =>
  have ⟨hn, hread⟩ := hmn hm
  have ⟨hk, hread'⟩ := hnk hn
  ⟨hk, fun a ha => (hread' a ha).trans (hread a ha)⟩

theorem WritesAsStep.ite {c : Prop} [Decidable c] (hn : WritesAsStep m n) (hk : WritesAsStep m k) :
    WritesAsStep m (if c then n else k) := by
  split
  · exact hn
  · exact hk

theorem WritesAsStep.setData (h : WritesAsStep m n) (i : Slot) (v : Byte) : WritesAsStep m (n.setData i v) :=
  h.trans fun hn => ⟨wf_setData n i v hn, fun a ha =>
    read_setData_ne n hn i v a (ha.ne_slotByte i (by decide) (by decide))⟩
theorem WritesAsStep.setControl (h : WritesAsStep m n) (i : Slot) (v : Byte) : WritesAsStep m (n.setControl i v) :=
  h.trans fun hn => ⟨wf_setControl n i v hn, fun a ha =>
    read_setControl_ne n hn i v a (ha.ne_slotByte i (by decide) (by decide))⟩
theorem WritesAsStep.setPhase (h : WritesAsStep m n) (i : Slot) (v : Byte) : WritesAsStep m (n.setPhase i v) :=
  h.trans fun hn => ⟨wf_setPhase n i v hn, fun a ha =>
    read_setPhase_ne n hn i v a (ha.ne_slotByte i (by decide) (by decide))⟩
theorem WritesAsStep.setCounter (h : WritesAsStep m n) (v : Half) : WritesAsStep m (n.setCounter v) :=
  h.trans fun hn => ⟨wf_setCounter n v hn, fun a ha =>
    read_setCounter_ne n hn v a ha.ne_counter.1 ha.ne_counter.2⟩

end

/-! STEP, stage by stage (R91 to R103) -/

theorem writesAsStep_stageAbsent (m : Memory) (i : Slot) (d c : Byte) : WritesAsStep m (stageAbsent m i d c).store :=
  (((WritesAsStep.refl m).setCounter _).ite (.refl m)).setPhase _ _

theorem writesAsStep_stageRecover (m : Memory) (i : Slot) : WritesAsStep m (stageRecover m i) :=
  ((WritesAsStep.refl m).setPhase _ _).ite (.refl m)

theorem writesAsStep_exchange (m : Memory) : WritesAsStep m (exchange m) :=
  have swapped := (((WritesAsStep.refl m).setData _ _).setData _ _).setControl _ _ |>.setControl _ _
  ((swapped.setPhase _ _).setPhase _ _).setCounter _

theorem writesAsStep_stageTransfer (T : Half) (m : Memory) (i : Slot) (e : Word) (d c : Byte) :
    WritesAsStep m (stageTransfer T m i e d c).store :=
  have advanced : WritesAsStep m (advance m i e) := ((WritesAsStep.refl m).setCounter _).ite (.refl m)
  advanced.trans ((writesAsStep_exchange _).ite (.refl _))

theorem writesAsStep_abandon (m : Memory) (i : Slot) : WritesAsStep m (abandon m i) :=
  ((WritesAsStep.refl m).setPhase _ _).setCounter _

theorem writesAsStep_stageLatch (m : Memory) (i : Slot) (d c : Byte) : WritesAsStep m (stageLatch m i d c).store :=
  have latched : WritesAsStep m (latch m i d c) := (((WritesAsStep.refl m).setData _ _).setControl _ _).setPhase _ _
  latched.trans ((((WritesAsStep.refl _).setPhase _ _).setPhase _ _).setCounter _ |>.ite (.refl _))

/-- Each of STEP's six ways writes DATA, CONTROL, PHASE and COUNTER only. -/
theorem writesAsStep_protocolStep (T : Half) (m : Memory) (i : Slot) (e : Word) (d c : Byte) :
    WritesAsStep m (protocolStep T m i e d c).store := by
  have hrecover := writesAsStep_stageRecover m i
  obtain ⟨_, h⟩ | ⟨_, _, h⟩ | ⟨_, _, _, h⟩ | ⟨_, _, _, _, _, h⟩ | ⟨_, _, _, _, _, h⟩ | ⟨_, _, _, _, h⟩ :=
    protocolStep_cases T m i e d c <;> rw [h]
  · exact .refl m
  · exact (WritesAsStep.refl m).setPhase _ _
  · exact writesAsStep_stageAbsent m i d c
  · exact hrecover.trans (writesAsStep_stageTransfer T _ i e d c)
  · exact (hrecover.trans (writesAsStep_abandon _ i)).trans (writesAsStep_stageLatch _ i d c)
  · exact hrecover.trans (writesAsStep_stageLatch _ i d c)

/-- Settles O29: no stage of STEP writes INIT, ALIVE or a byte from 0x0E on, and each keeps the canonical form (log 9). -/
theorem stepNeverWritesOutsideOrAlive : Obligations.StepNeverWritesOutsideOrAlive :=
  fun T m i e d c => writesAsStep_protocolStep T m i e d c

/-! The store's bytes as a run reads them (R20, R44) -/

theorem readByte_of_exists {s : State} (h : s.storeExists = true) {a : Nat} (ha : a < storeSize) :
    s.readByte a = some (s.store.read a) := by
  simp [State.readByte, h, ha]

/-- A byte that two stores of the same existence share. -/
theorem readByte_congr {s t : State} {a : Nat} (he : t.storeExists = s.storeExists)
    (hr : t.store.read a = s.store.read a) : t.readByte a = s.readByte a := by
  simp only [State.readByte, he, hr]

theorem readByte_eq_some_iff {s : State} (h : s.storeExists = true) {a : Nat} (ha : a < storeSize) (v : Byte) :
    s.readByte a = some v ↔ s.store.read a = v := by
  simp [readByte_of_exists h ha]

theorem readByte_withStore {s : State} (h : s.storeExists = true) (m : Memory) {a : Nat} (ha : a < storeSize) :
    State.readByte { s with store := m } a = some (m.read a) :=
  readByte_of_exists (s := { s with store := m }) h ha

theorem storeIsMine_eq_true_iff (s : State) :
    s.storeIsMine = true ↔ s.storeExists = true ∧ s.storeGen = s.me.gen := by
  simp [State.storeIsMine]

theorem storeIsMine_eq_false_iff (s : State) :
    s.storeIsMine = false ↔ s.storeExists = false ∨ s.storeGen ≠ s.me.gen := by
  cases he : s.storeExists <;> simp [State.storeIsMine, he]

/-! The frames of the µ-ops that end in a response -/

/-- The command ends on the acting side alone (R14). -/
theorem setMe_respond (s : State) (l : SideState) (f : Instr) :
    (s.setMe l).respond f = s.setMe (l.ended (encode f)) := by
  simp [State.respond, SideState.ended]

theorem localOnly_respond (s : State) (f : Instr) : localOnly s (s.respond f) (s.me.ended (encode f)) :=
  localOnly_setMe _ _

theorem localOnly_attachFails (s : State) :
    localOnly s s.attachFails (({ s.me with seq := .detached }).ended [0x81, 0x01, 0xFF]) := by
  rw [State.attachFails, setMe_respond]
  exact localOnly_setMe _ _

/-- A change of the acting side on top of a framed one. -/
theorem sameElsewhere_setMe {s u : State} (h : sameElsewhere s u) (l : SideState) : sameElsewhere s (u.setMe l) := by
  obtain ⟨hcfg, hturn, hexists, hgen, hlock, hc2p, hp2c, hother, hsched, horacle, hdraws⟩ := h
  simp only [sameElsewhere, setMe_cfg, setMe_turn, setMe_storeExists, setMe_storeGen, setMe_lockOwner, setMe_c2p,
    setMe_p2c, setMe_schedule, setMe_oracle, setMe_draws]
  refine ⟨hcfg, hturn, hexists, hgen, hlock, hc2p, hp2c, ?_, hsched, horacle, hdraws⟩
  rw [← hturn] at hother ⊢
  exact (setMe_side_other u l).trans hother

theorem sameElsewhere_withStore (s : State) (m : Memory) : sameElsewhere s { s with store := m } :=
  ⟨rfl, rfl, rfl, rfl, rfl, rfl, rfl, rfl, rfl, rfl, rfl⟩

/-! CREATE_OR_OPEN (R82) -/

/-- A created store is zero-filled, which lists no byte (log 9). -/
theorem createStore_eq (s : State) :
    s.createStore = { s with storeExists := true, storeGen := s.storeGen + 1, store := [] } := rfl

/-- Settles O13: the draw's two outcomes and the store's existence are the three branches of R82. -/
theorem createOrOpenResult : Obligations.CreateOrOpenResult := by
  intro s hmode hcmd hseq
  have hon : enabled s .createOrOpen = true := decide_eq_true ⟨hmode, hcmd, hseq⟩
  refine ⟨_, whenEnabled_of_enabled hon _, fun hfail => ?_, fun hok hexists => ?_, fun hok hnone => ?_⟩
  · rw [hfail, createOrOpen, if_pos rfl]
    exact afterDraw_me s ▸ localOnly_respond s.afterDraw (.attachRsp Status.transportUnavailable 0xFF)
  · have hopen : createOrOpen s.afterDraw s.drawn =
        s.afterDraw.setMe { s.me with creator := false, gen := s.storeGen, polls := 0, seq := .joining } := by
      simp [createOrOpen, hok, hexists]
    rw [hopen]
    exact localOnly_setMe _ _
  · have hcreate : createOrOpen s.afterDraw s.drawn = ({ s.afterDraw with
        storeExists := true, storeGen := s.storeGen + 1, store := [], lockOwner := none }).setMe
          { s.me with creator := true, gen := s.storeGen + 1, seq := .created } := by
      simp [createOrOpen, hok, hnone, createStore_eq]
    rw [hcreate]
    refine ⟨sameElsewhere_setMe (sameElsewhere_withStore _ []) _, setMe_me _ _, fun a ha => ?_⟩
    rw [setMe_readByte, readByte_of_exists rfl (Nat.lt_succ_of_le ha)]
    rfl

/-! INIT_REGION and PUBLISH (R83, R84) -/

/-- The protected region after INIT_REGION: zeroed, but for ALIVE[0] (R83). -/
theorem read_initRegion {m : Memory} (h : m.wf = true) (a : Nat) :
    ((m.fill protectedOffset 0x00 12).setAlive .zero 0x01).read a =
      if a = 0x04 then 0x01 else if 0x04 ≤ a ∧ a < 0x10 then 0x00 else m.read a := by
  have hfill : (m.fill protectedOffset 0x00 12).wf = true := wf_fill m _ _ _ (by decide) h
  by_cases ha : a = 0x04
  · subst ha
    exact (read_write_same _ _ _ hfill).trans (if_pos rfl).symm
  · rw [read_setAlive_ne _ hfill _ _ _ ha, read_fill _ _ _ _ _ (by decide) h, if_neg ha]
    rfl

/-- Settles O14: the zero fill of the twelve protected bytes and the write of ALIVE[0] (R83). -/
theorem initRegionResult : Obligations.InitRegionResult := by
  intro s hmode hseq hexists hwf
  have hon : enabled s .initRegion = true := decide_eq_true ⟨hmode, hseq⟩
  have hnext : exec .initRegion s = .next (initRegion s) :=
    (whenEnabled_of_enabled hon _).trans ((needStore_eq_next _ _ _).2 ⟨hexists, rfl⟩)
  have hread (a : Nat) : (initRegion s).store.read a =
      if a = 0x04 then 0x01 else if 0x04 ≤ a ∧ a < 0x10 then 0x00 else s.store.read a :=
    (congrArg (·.read a) (setMe_store _ _)).trans (read_initRegion hwf a)
  have hsame : (initRegion s).storeExists = s.storeExists := setMe_storeExists _ _
  refine ⟨_, hnext, sameElsewhere_setMe (sameElsewhere_withStore s _) _, setMe_me _ _, ?_, fun a hlow hhigh => ?_,
    fun a ha => ?_⟩
  · rw [readByte_of_exists (hsame.trans hexists) (by decide), hread, if_pos rfl]
  · rw [readByte_of_exists (hsame.trans hexists) (Nat.lt_succ_of_le hhigh), hread, if_neg (by omega), if_pos (by omega)]
  · exact readByte_congr hsame (by rw [hread, if_neg (by omega), if_neg (by omega)])

theorem publish_eq (s : State) : publish s =
    ({ s with store := s.store.setInit 0x01 }).setMe (({ s.me with seq := .attached }).ended [0x81, 0x00, 0x00]) :=
  setMe_respond _ _ _

/-- Settles O15: PUBLISH writes one byte of the store, INIT (R84). -/
theorem publishResult : Obligations.PublishResult := by
  intro s hmode hseq hexists hwf
  have hon : enabled s .publish = true := decide_eq_true ⟨hmode, hseq⟩
  have hnext : exec .publish s = .next (publish s) :=
    (whenEnabled_of_enabled hon _).trans ((needStore_eq_next _ _ _).2 ⟨hexists, rfl⟩)
  refine ⟨_, hnext, ?_⟩
  rw [publish_eq]
  refine ⟨sameElsewhere_setMe (sameElsewhere_withStore s _) _, setMe_me _ _, ?_, fun a ha => ?_⟩
  · rw [setMe_readByte, readByte_withStore hexists _ (by decide)]
    exact congrArg some (init_setInit s.store hwf 0x01)
  · rw [setMe_readByte]
    exact readByte_congr rfl (read_setInit_ne s.store hwf 0x01 a ha)

/-! POLL_INIT (R85) -/

/-- Settles O16: the store is gone, INIT is seen, or the poll is counted (R85). -/
theorem pollInitResult : Obligations.PollInitResult := by
  intro s hmode hseq
  have hon : enabled s .pollInit = true := decide_eq_true ⟨hmode, hseq⟩
  refine ⟨_, whenEnabled_of_enabled hon _, fun hgone => ?_, fun hexists hgen => ?_⟩
  · rw [pollInit, if_pos ((storeIsMine_eq_false_iff s).2 hgone)]
    exact localOnly_attachFails s
  · have hmine := (storeIsMine_eq_true_iff s).2 ⟨hexists, hgen⟩
    have hinit : s.readByte 0x00 = some 0x01 ↔ s.store.init = 0x01 := readByte_eq_some_iff hexists (by decide) _
    rw [pollInit, if_neg (by simp [hmine])]
    refine ⟨fun hseen => ?_, fun hunseen hmore => ?_, fun hunseen hlast => ?_⟩
    · rw [if_pos (hinit.1 hseen)]
      exact localOnly_setMe _ _
    · rw [if_neg (mt hinit.2 hunseen), pollAgain, if_neg hmore]
      exact localOnly_setMe _ _
    · rw [if_neg (mt hinit.2 hunseen), pollAgain, if_pos hlast, State.attachFails, setMe_respond, setMe_me, setMe_setMe]
      exact localOnly_setMe _ _

/-! CLAIM_SLOT (R86) -/

theorem freeSlot_eq_none_iff (m : Memory) : freeSlot m = none ↔ m.alive .zero ≠ 0x00 ∧ m.alive .one ≠ 0x00 := by
  unfold freeSlot
  split_ifs <;> simp_all

/-- The lowest free slot: slot 1 only where slot 0 is taken. -/
theorem freeSlot_eq_some_iff (m : Memory) (i : Slot) :
    freeSlot m = some i ↔ m.alive i = 0x00 ∧ (i = .one → m.alive .zero ≠ 0x00) := by
  unfold freeSlot
  cases i <;> split_ifs <;> simp_all

theorem claimSlot_of_not_mine {s : State} (h : s.storeIsMine = false) : claimSlot s = s.attachFails := by
  rw [claimSlot, if_pos h]

theorem claimSlot_of_full {s : State} (hfull : freeSlot s.store = none) : claimSlot s = s.attachFails := by
  simp only [claimSlot, hfull, ite_self]

theorem claimSlot_of_free {s : State} {i : Slot} (hmine : s.storeIsMine = true) (hfree : freeSlot s.store = some i) :
    claimSlot s = ({ s with store := claim s.store i }).setMe
      (({ s.me with slot := i.code, seq := .attached }).ended [0x81, 0x00, i.code]) := by
  rw [claimSlot, if_neg (by simp [hmine])]
  simp only [hfree]
  exact setMe_respond _ _ _

/-- The four bytes of a claimed slot (R86). -/
theorem slotReads_claim {m : Memory} (h : m.wf = true) (i : Slot) : slotReads (claim m i) i 0x01 0x00 0x00 0x00 := by
  refine ⟨?_, ?_, ?_, ?_⟩ <;> rw [read_claim m i h] <;> simp

/-- Settles O17: no store of its own or no free slot fails; else the lowest free slot is claimed (R86). -/
theorem claimSlotResult : Obligations.ClaimSlotResult := by
  intro s hmode hseq hwf hlock
  have hon : enabled s .claimSlot = true :=
    decide_eq_true ⟨hmode, hseq, hlock.imp_right (storeIsMine_eq_false_iff s).2⟩
  refine ⟨_, whenEnabled_of_enabled hon _, fun hfails => ?_, fun i hexists hgen hfree hlowest => ?_⟩
  · have hfailed : claimSlot s = s.attachFails := by
      cases hmine : s.storeIsMine with
      | false => exact claimSlot_of_not_mine hmine
      | true =>
        obtain ⟨hexists, hgen⟩ := (storeIsMine_eq_true_iff s).1 hmine
        obtain hgone | hother | ⟨hzero, hone⟩ := hfails
        · simp [hexists] at hgone
        · exact absurd hgen hother
        · exact claimSlot_of_full ((freeSlot_eq_none_iff _).2
            ⟨mt (readByte_eq_some_iff hexists (by decide) _).2 hzero,
              mt (readByte_eq_some_iff hexists (by decide) _).2 hone⟩)
    rw [hfailed]
    exact localOnly_attachFails s
  · have hi : freeSlot s.store = some i := (freeSlot_eq_some_iff _ _).2
      ⟨(readByte_eq_some_iff hexists (base_lt i 0 (by decide)) _).1 hfree, fun h1 =>
        mt (readByte_eq_some_iff hexists (by decide) _).2 (hlowest h1)⟩
    rw [claimSlot_of_free ((storeIsMine_eq_true_iff s).2 ⟨hexists, hgen⟩) hi]
    refine ⟨sameElsewhere_setMe (sameElsewhere_withStore s _) _, setMe_me _ _, ?_, fun a ha => ?_⟩
    · rw [setMe_store]
      exact slotReads_claim hwf i
    · rw [setMe_readByte]
      refine readByte_congr rfl ?_
      rw [read_claim _ _ hwf, if_neg (by omega), if_neg (by omega)]

/-! DETACH_EXEC (R88) -/

/-- The peer's ALIVE outlives the leaving of a slot (R88). -/
theorem alive_leaveSlot {m : Memory} (h : m.wf = true) (i : Slot) :
    (leaveSlot m i).alive i.peer = m.alive i.peer := by
  have hcounter := slotOffset_ne_counter i.peer 0 (by decide)
  have hne (k : Nat) (hk : k < 4) : i.peer.base + 0 ≠ i.base + k :=
    slotOffset_ne i.peer i 0 k (by decide) hk (.inl (peer_ne i))
  have hread := read_leaveSlot m i h (i.peer.base + 0) fun _ => hcounter
  rwa [if_neg (not_or.2 ⟨hne 0 (by decide), hne 3 (by decide)⟩)] at hread

/-- The side that leaves a slot (R88). -/
def SideState.detached (l : SideState) : SideState :=
  ({ l with seq := .detached, creator := false, disc := true }).ended [0x84, 0x00]

/-- The peer is gone: the store goes with the side (R88). -/
theorem detachFrom_of_peer_gone {s : State} (hwf : s.store.wf = true) {i : Slot} (h : s.store.alive i.peer = 0x00) :
    detachFrom s i = ({ s with storeExists := false, store := [] }).setMe s.me.detached := by
  simp only [detachFrom, alive_leaveSlot hwf, h, if_true]
  exact setMe_respond _ _ _

theorem detachFrom_of_peer_present {s : State} (hwf : s.store.wf = true) {i : Slot} (h : s.store.alive i.peer ≠ 0x00) :
    detachFrom s i = ({ s with store := leaveSlot s.store i }).setMe s.me.detached := by
  simp only [detachFrom, alive_leaveSlot hwf, h, if_false]
  exact setMe_respond _ _ _

/-- COUNTER is zeroed byte by byte with a TRANSFERRING slot that is left (R47, R88). -/
theorem read_counter_leaveSlot {m : Memory} (h : m.wf = true) {i : Slot} (ht : m.phase i = Phase.transferring) :
    (leaveSlot m i).read 0x0C = 0x00 ∧ (leaveSlot m i).read 0x0D = 0x00 := by
  have w := wf_setCounter m 0 h
  have wa := wf_setAlive _ i 0x00 w
  have hne (k : Nat) (hk : k < 4) := slotOffset_ne_counter i k hk
  rw [leaveSlot, if_pos ht,
    read_setPhase_ne _ wa _ _ _ (hne 3 (by decide)).1.symm, read_setAlive_ne _ w _ _ _ (hne 0 (by decide)).1.symm,
    read_setPhase_ne _ wa _ _ _ (hne 3 (by decide)).2.symm, read_setAlive_ne _ w _ _ _ (hne 0 (by decide)).2.symm]
  exact ⟨read_setCounter_low m h 0, read_setCounter_high m h 0⟩

/-- Settles O18: whether the peer's ALIVE is 0x00 decides between the store's end and the leaving of the slot (R88). -/
theorem detachExecResult : Obligations.DetachExecResult := by
  intro s i hmode hcmd hseq hlock hexists hwf hslot
  have hon : enabled s .detachExec = true := decide_eq_true ⟨hmode, hcmd, hseq, hlock⟩
  have hnext : exec .detachExec s = .next (detachFrom s i) :=
    (whenEnabled_of_enabled hon _).trans ((atOwnSlot_eq_next _ _ _).2 ⟨hexists, i, hslot, rfl⟩)
  refine ⟨_, hnext, ?_, fun hgone => ?_, fun hpresent => ?_⟩
  · by_cases hpeer : s.store.alive i.peer = 0x00
    · rw [detachFrom_of_peer_gone hwf hpeer, setMe_me, SideState.detached]
    · rw [detachFrom_of_peer_present hwf hpeer, setMe_me, SideState.detached]
  · rw [detachFrom_of_peer_gone hwf hgone]
    exact sameElsewhere_setMe (sameElsewhere_withStore _ []) _
  · rw [detachFrom_of_peer_present hwf hpresent]
    have hown (k : Nat) (hk : k < 4) (hleft : k = 0 ∨ k = 3) : (leaveSlot s.store i).read (i.base + k) = 0x00 := by
      rw [read_leaveSlot _ _ hwf _ fun _ => slotOffset_ne_counter i k hk, if_pos (by omega)]
    simp only [setMe_readByte]
    refine ⟨sameElsewhere_setMe (sameElsewhere_withStore s _) _, ?_, ?_, fun ht => ?_, fun a h0 h3 hc => ?_⟩
    · rw [readByte_withStore hexists _ (base_lt i 0 (by decide)), hown 0 (by decide) (.inl rfl)]
    · rw [readByte_withStore hexists _ (base_lt i 3 (by decide)), hown 3 (by decide) (.inr rfl)]
    · obtain ⟨hlow, hhigh⟩ := read_counter_leaveSlot hwf ht
      rw [readByte_withStore hexists _ (by decide), readByte_withStore hexists _ (by decide), hlow, hhigh]
      exact ⟨rfl, rfl⟩
    · refine readByte_congr rfl ?_
      rw [read_leaveSlot _ _ hwf _ hc, if_neg (not_or.2 ⟨h0, h3⟩)]

end Sys2Proof.Machine
end

section
/-! PROOFS. The attachment invariant (40_transport.md R89): a side's attachment by its L.SEQ, the link as the acting side
sees it, what each µ-op makes of it, the lock, the response ports, and the statement O58. -/

namespace Sys2Proof.Machine

/-! An SHM side by its L.SEQ (R31, R89) -/

/-- The store that the side with local state `l` is creating. -/
def creatorOk (s : State) (l : SideState) : Prop :=
  s.storeExists = true ∧ l.gen = s.storeGen ∧ s.store.init ≠ 0x01 ∧ l.cmd = .attach

/-- R89 of an SHM side with local state `l`, one clause per value of L.SEQ. -/
def attachmentOk (s : State) (l : SideState) : Prop :=
  l.gen ≤ s.storeGen ∧
  match l.seq with
  | .detached => True
  | .created => creatorOk s l
  | .initialized => creatorOk s l ∧ l.slot = 0x00 ∧ s.store.alive .zero = 0x01
  | .joining => l.cmd = .attach
  | .publishedSeen => l.cmd = .attach ∧ (s.storeExists = true → l.gen = s.storeGen → s.store.init = 0x01)
  | .attached =>
    s.storeExists = true ∧ l.gen = s.storeGen ∧ s.store.init = 0x01 ∧
      ∃ i, Slot.ofByte l.slot = some i ∧ s.store.alive i = 0x01
  | .closed => False

theorem shmSideOk_iff (s : State) (X : Side) : shmSideOk s X ↔ attachmentOk s (s.side X) := by
  cases hq : (s.side X).seq <;> simp [shmSideOk, attachmentOk, creatorOk, Seq.creating, hq] <;> tauto

section
variable {s t : State} {l r : SideState}

theorem attachmentOk_detached (hq : l.seq = .detached) : attachmentOk s l ↔ l.gen ≤ s.storeGen := by
  simp [attachmentOk, hq]
theorem attachmentOk_created (hq : l.seq = .created) : attachmentOk s l ↔ l.gen ≤ s.storeGen ∧ creatorOk s l := by
  simp [attachmentOk, hq]
theorem attachmentOk_initialized (hq : l.seq = .initialized) :
    attachmentOk s l ↔ l.gen ≤ s.storeGen ∧ creatorOk s l ∧ l.slot = 0x00 ∧ s.store.alive .zero = 0x01 := by
  simp [attachmentOk, hq]
theorem attachmentOk_joining (hq : l.seq = .joining) : attachmentOk s l ↔ l.gen ≤ s.storeGen ∧ l.cmd = .attach := by
  simp [attachmentOk, hq]
theorem attachmentOk_publishedSeen (hq : l.seq = .publishedSeen) :
    attachmentOk s l ↔ l.gen ≤ s.storeGen ∧ l.cmd = .attach ∧
      (s.storeExists = true → l.gen = s.storeGen → s.store.init = 0x01) := by
  simp [attachmentOk, hq]
theorem attachmentOk_attached (hq : l.seq = .attached) :
    attachmentOk s l ↔ l.gen ≤ s.storeGen ∧ s.storeExists = true ∧ l.gen = s.storeGen ∧ s.store.init = 0x01 ∧
      ∃ i, Slot.ofByte l.slot = some i ∧ s.store.alive i = 0x01 := by
  simp [attachmentOk, hq]

theorem attachmentOk.gen_le (h : attachmentOk s l) : l.gen ≤ s.storeGen := h.1

theorem attachmentOk.seq_ne_closed (h : attachmentOk s l) : l.seq ≠ .closed := by
  intro hq
  simp [attachmentOk, hq] at h

theorem attachmentOk.creatorOk (h : attachmentOk s l) (hq : l.seq.creating) : creatorOk s l := by
  obtain hq | hq := hq
  · exact ((attachmentOk_created hq).1 h).2
  · exact ((attachmentOk_initialized hq).1 h).2.1

/-- What `attachmentOk` reads of the store is the same in `s` and `t`. -/
def sameAttachments (s t : State) : Prop :=
  t.storeExists = s.storeExists ∧ t.storeGen = s.storeGen ∧ t.store.init = s.store.init ∧
  ∀ i, t.store.alive i = s.store.alive i

theorem sameAttachments.refl (s : State) : sameAttachments s s := ⟨rfl, rfl, rfl, fun _ => rfl⟩

theorem sameAttachments_of_store (hstore : t.store = s.store) (hexists : t.storeExists = s.storeExists)
    (hgen : t.storeGen = s.storeGen) : sameAttachments s t :=
  ⟨hexists, hgen, congrArg Memory.init hstore, fun i => congrArg (Memory.alive · i) hstore⟩

theorem sameAttachments_setMe (s : State) (l : SideState) : sameAttachments s (s.setMe l) :=
  sameAttachments_of_store (setMe_store s l) (setMe_storeExists s l) (setMe_storeGen s l)

theorem sameAttachments.attachmentOk_iff (h : sameAttachments s t) : attachmentOk t l ↔ attachmentOk s l := by
  obtain ⟨hexists, hgen, hinit, halive⟩ := h
  simp only [attachmentOk, Machine.creatorOk, hexists, hgen, hinit, halive]

/-- `l'` has the L.SEQ, L.SLOT and L.GEN of `l`, and an ATTACH under way goes on. -/
structure SameHold (l l' : SideState) : Prop where
  seq : l'.seq = l.seq
  slot : l'.slot = l.slot
  gen : l'.gen = l.gen
  cmd : l.cmd = .attach → l.seq = .detached ∨ l.seq = .attached ∨ l'.cmd = .attach

theorem attachmentOk.sameHold (h : attachmentOk s l) (hl : SameHold l r) : attachmentOk s r := by
  obtain ⟨hseq, hslot, hgen, hcmd⟩ := hl
  cases hq : l.seq <;> simp [attachmentOk, Machine.creatorOk, hseq, hslot, hgen, hq] at h hcmd ⊢ <;> tauto

/-- The side holds no slot and creates no store. -/
def bystander (l : SideState) : Prop := ¬ l.seq.creating ∧ l.seq ≠ .attached

theorem bystander_of_seq (h : l.seq = .detached ∨ l.seq = .joining ∨ l.seq = .publishedSeen) : bystander l := by
  obtain h | h | h := h <;> simp [bystander, Seq.creating, h]

/-- A bystander minds only that what it saw of INIT stays true (R85, R86). -/
theorem attachmentOk.of_bystander (h : attachmentOk s r) (hb : bystander r) (hgen : s.storeGen ≤ t.storeGen)
    (hseen : r.seq = .publishedSeen → t.storeExists = true → r.gen = t.storeGen → t.store.init = 0x01) :
    attachmentOk t r := by
  have hle := h.gen_le.trans hgen
  cases hq : r.seq with
  | detached => exact (attachmentOk_detached hq).2 hle
  | created => exact absurd (.inl hq) hb.1
  | initialized => exact absurd (.inr hq) hb.1
  | joining =>
    obtain ⟨_, hcmd⟩ := (attachmentOk_joining hq).1 h
    exact (attachmentOk_joining hq).2 ⟨hle, hcmd⟩
  | publishedSeen =>
    obtain ⟨_, hcmd, _⟩ := (attachmentOk_publishedSeen hq).1 h
    exact (attachmentOk_publishedSeen hq).2 ⟨hle, hcmd, hseen hq⟩
  | attached => exact absurd hq hb.2
  | closed => exact absurd hq h.seq_ne_closed

/-- An edit of the store that keeps INIT and an attached side's ALIVE keeps the attachment of a side that is not creating. -/
theorem attachmentOk.editStore (h : attachmentOk s r) (hc : ¬ r.seq.creating) {m : Memory}
    (hinit : m.init = s.store.init)
    (halive : ∀ i, r.seq = .attached → Slot.ofByte r.slot = some i → s.store.alive i = 0x01 → m.alive i = 0x01) :
    attachmentOk { s with store := m } r := by
  by_cases hq : r.seq = .attached
  · obtain ⟨hle, hexists, hgen, hpublished, i, hi, hone⟩ := (attachmentOk_attached hq).1 h
    exact (attachmentOk_attached hq).2 ⟨hle, hexists, hgen, hinit.trans hpublished, i, hi, halive i hq hi hone⟩
  · refine h.of_bystander ⟨hc, hq⟩ le_rfl fun hs he hg => ?_
    obtain ⟨_, _, hseen⟩ := (attachmentOk_publishedSeen hs).1 h
    exact hinit.trans (hseen he hg)

theorem attachmentOk.bystander_of_no_store (h : attachmentOk s r) (hno : s.storeExists = false) : bystander r := by
  refine ⟨fun hc => ?_, fun hq => ?_⟩
  · obtain ⟨hexists, _⟩ := h.creatorOk hc
    simp [hno] at hexists
  · obtain ⟨_, hexists, _⟩ := (attachmentOk_attached hq).1 h
    simp [hno] at hexists

/-- A published store has no creator any more (R84). -/
theorem attachmentOk.not_creating (h : attachmentOk s r) (hinit : s.store.init = 0x01) : ¬ r.seq.creating := fun hc =>
  have ⟨_, _, hne, _⟩ := h.creatorOk hc
  hne hinit

/-! The two sides of one store -/

/-- Only one of the two sides creates the store, and they hold different slots. -/
def apart (l r : SideState) : Prop :=
  ¬ (l.seq.creating ∧ r.seq.creating) ∧ (l.seq = .attached → r.seq = .attached → l.slot ≠ r.slot)

theorem apart_comm : apart l r ↔ apart r l := by
  simp only [apart, and_comm, ne_comm]
  tauto

theorem bystander.apart (h : bystander l) : apart l r := ⟨fun hc => h.1 hc.1, fun hq => absurd hq h.2⟩

theorem bystander.apart_right (h : bystander r) : Machine.apart l r := apart_comm.1 h.apart

/-- Beside the creator of an unpublished store the other side is a bystander. -/
theorem bystander_of_creator (hl : attachmentOk s l) (hc : l.seq.creating) (hr : attachmentOk s r)
    (ha : Machine.apart l r) : bystander r := by
  obtain ⟨_, _, hne, _⟩ := hl.creatorOk hc
  refine ⟨fun hc' => ha.1 ⟨hc, hc'⟩, fun hq => ?_⟩
  obtain ⟨_, _, _, hinit, _⟩ := (attachmentOk_attached hq).1 hr
  exact hne hinit

end

/-- An SHM side with local state `l` and, where the other side's mode `n` is SHM too, that side with `r` beside it. -/
structure ShmLink (n : Mode) (s : State) (l r : SideState) : Prop where
  own : attachmentOk s l
  beside : n = .shm → attachmentOk s r ∧ apart l r

section
variable {n : Mode} {s t : State} {l l' r : SideState}

/-- The side is and becomes none that the other has to mind, and the store stays. -/
theorem ShmLink.bystander (h : ShmLink n s l r) (hsame : sameAttachments s t) (hl : attachmentOk s l')
    (hb : bystander l') : ShmLink n t l' r :=
  ⟨hsame.attachmentOk_iff.2 hl, fun hn => ⟨hsame.attachmentOk_iff.2 (h.beside hn).1, hb.apart⟩⟩

theorem shmLink_setMe : ShmLink n (s.setMe l) (s.setMe l).me r ↔ ShmLink n s l r := by
  have hsame (l' : SideState) := (sameAttachments_setMe s l).attachmentOk_iff (l := l')
  rw [setMe_me]
  exact ⟨fun h => ⟨(hsame l).1 h.own, fun hn => (h.beside hn).imp_left (hsame r).1⟩,
    fun h => ⟨(hsame l).2 h.own, fun hn => (h.beside hn).imp_left (hsame r).2⟩⟩

/-! The shared transport's µ-ops (R82 to R88) -/

theorem ShmLink.sameHold (h : ShmLink n s l r) (hsame : sameAttachments s t) (hl : SameHold l l') :
    ShmLink n t l' r := by
  refine ⟨hsame.attachmentOk_iff.2 (h.own.sameHold hl), fun hn => ⟨hsame.attachmentOk_iff.2 (h.beside hn).1, ?_⟩⟩
  simpa only [apart, hl.seq, hl.slot] using (h.beside hn).2

theorem shmLink_attachFails (h : ShmLink n s s.me r) : ShmLink n s.attachFails s.attachFails.me r := by
  rw [State.attachFails, setMe_respond, shmLink_setMe]
  exact h.bystander (.refl s) ((attachmentOk_detached rfl).2 h.own.gen_le) (bystander_of_seq (.inl rfl))

theorem shmLink_createOrOpen (h : ShmLink n s s.me r) (hq : s.me.seq = .detached) (hc : s.me.cmd = .attach)
    (fail : Bool) : ShmLink n (createOrOpen s fail) (createOrOpen s fail).me r := by
  unfold createOrOpen
  split_ifs with hfail hexists
  · rw [State.respond, shmLink_setMe]
    exact h.sameHold (.refl s) ⟨rfl, rfl, rfl, fun _ => .inl hq⟩
  · rw [shmLink_setMe]
    exact h.bystander (.refl s) ((attachmentOk_joining rfl).2 ⟨le_rfl, hc⟩) (bystander_of_seq (.inr (.inl rfl)))
  · rw [shmLink_setMe]
    have hno : s.storeExists = false := by simpa using hexists
    refine ⟨(attachmentOk_created rfl).2 ⟨le_rfl, rfl, rfl, (by decide : Memory.init [] ≠ 0x01), hc⟩, fun hn => ?_⟩
    have hr := (h.beside hn).1
    have hb := hr.bystander_of_no_store hno
    refine ⟨hr.of_bystander hb (Nat.le_succ _) fun _ _ hg => ?_, hb.apart_right⟩
    have hle := hr.gen_le
    simp only [createStore_storeGen] at hg
    omega

theorem shmLink_initRegion (h : ShmLink n s s.me r) (hq : s.me.seq = .created) (hwf : s.store.wf = true) :
    ShmLink n (initRegion s) (initRegion s).me r := by
  obtain ⟨hle, hexists, hgen, hinit, hcmd⟩ := (attachmentOk_created hq).1 h.own
  have hkept := (((keepsInit_fillProtected s.store).setAlive .zero 0x01) hwf).2
  have halive : Memory.alive ((s.store.fill protectedOffset 0x00 12).setAlive .zero 0x01) .zero = 0x01 :=
    alive_setAlive _ (wf_fill _ _ _ _ (by decide) hwf) _ _
  rw [initRegion, shmLink_setMe]
  refine ⟨(attachmentOk_initialized rfl).2 ⟨hle, ⟨hexists, hgen, hkept ▸ hinit, hcmd⟩, rfl, halive⟩, fun hn => ?_⟩
  obtain ⟨hr, ha⟩ := h.beside hn
  have hb := bystander_of_creator h.own (.inl hq) hr ha
  exact ⟨hr.editStore hb.1 hkept fun _ hq' => absurd hq' hb.2, hb.apart_right⟩

theorem shmLink_publish (h : ShmLink n s s.me r) (hq : s.me.seq = .initialized) (hwf : s.store.wf = true) :
    ShmLink n (publish s) (publish s).me r := by
  obtain ⟨hle, ⟨hexists, hgen, _, _⟩, hslot, halive⟩ := (attachmentOk_initialized hq).1 h.own
  have hpublished := init_setInit s.store hwf 0x01
  have hown : Slot.ofByte s.me.slot = some .zero := (ofByte_eq_some _ _).2 hslot
  rw [publish_eq, shmLink_setMe]
  refine ⟨(attachmentOk_attached rfl).2 ⟨hle, hexists, hgen, hpublished, .zero, hown,
    (alive_setInit s.store hwf .zero 0x01).trans halive⟩, fun hn => ?_⟩
  obtain ⟨hr, ha⟩ := h.beside hn
  have hb := bystander_of_creator h.own (.inr hq) hr ha
  exact ⟨hr.of_bystander hb le_rfl fun _ _ _ => hpublished, hb.apart_right⟩

theorem shmLink_pollInit (h : ShmLink n s s.me r) (hq : s.me.seq = .joining) :
    ShmLink n (pollInit s) (pollInit s).me r := by
  obtain ⟨hle, hcmd⟩ := (attachmentOk_joining hq).1 h.own
  have hcounted : ShmLink n (s.setMe { s.me with polls := s.me.polls + 1 })
      (s.setMe { s.me with polls := s.me.polls + 1 }).me r :=
    shmLink_setMe.2 (h.sameHold (.refl s) ⟨rfl, rfl, rfl, fun _ => .inr (.inr hcmd)⟩)
  unfold pollInit pollAgain
  split_ifs with _ hseen
  · exact shmLink_attachFails h
  · rw [shmLink_setMe]
    exact h.bystander (.refl s) ((attachmentOk_publishedSeen rfl).2 ⟨hle, hcmd, fun _ _ => hseen⟩)
      (bystander_of_seq (.inr (.inr rfl)))
  · exact shmLink_attachFails hcounted
  · exact hcounted

theorem alive_claim {m : Memory} (h : m.wf = true) (i j : Slot) :
    (claim m i).alive j = if j = i then 0x01 else m.alive j := by
  have w1 := wf_setAlive m i 0x01 h
  have w2 := wf_setData _ i 0x00 w1
  rw [claim, alive_setPhase _ (wf_setControl _ _ _ w2), alive_setControl _ w2, alive_setData _ w1,
    alive_setAlive_eq _ h]

/-- A slot whose ALIVE is 0x00 is not the one an attached side holds. -/
theorem slot_ne_of_alive {m : Memory} {i j : Slot} (hi : m.alive i = 0x00) (hj : m.alive j = 0x01) : j ≠ i := by
  rintro rfl
  exact absurd (hi.symm.trans hj) (by decide)

theorem shmLink_claimSlot (h : ShmLink n s s.me r) (hq : s.me.seq = .publishedSeen) (hwf : s.store.wf = true) :
    ShmLink n (claimSlot s) (claimSlot s).me r := by
  cases hmine : s.storeIsMine with
  | false => rw [claimSlot_of_not_mine hmine]; exact shmLink_attachFails h
  | true =>
    cases hfree : freeSlot s.store with
    | none => rw [claimSlot_of_full hfree]; exact shmLink_attachFails h
    | some i =>
      obtain ⟨hexists, hgen⟩ := (storeIsMine_eq_true_iff s).1 hmine
      obtain ⟨hle, _, hseen⟩ := (attachmentOk_publishedSeen hq).1 h.own
      obtain ⟨hzero, _⟩ := (freeSlot_eq_some_iff _ _).1 hfree
      have hinit := hseen hexists hgen.symm
      have hkept := (keepsInit_claim s.store i hwf).2
      rw [claimSlot_of_free hmine hfree, shmLink_setMe]
      refine ⟨(attachmentOk_attached rfl).2 ⟨hle, hexists, hgen.symm, hkept.trans hinit, i, ofByte_code i, ?_⟩,
        fun hn => ?_⟩
      · simp [alive_claim hwf]
      · have hr := (h.beside hn).1
        refine ⟨hr.editStore (hr.not_creating hinit) hkept fun j _ _ hone => ?_, fun hc => ?_, fun _ hq' heq => ?_⟩
        · rw [alive_claim hwf, if_neg (slot_ne_of_alive hzero hone)]
          exact hone
        · exact hr.not_creating hinit hc.2
        · obtain ⟨_, _, _, _, j, hj, hone⟩ := (attachmentOk_attached hq').1 hr
          have hji : j = i := Option.some.inj (hj.symm.trans ((congrArg Slot.ofByte heq.symm).trans (ofByte_code i)))
          exact slot_ne_of_alive hzero hone hji

/-- Attached beside a side in slot `i`, the other side holds the peer slot. -/
theorem peer_of_apart {i j : Slot} (ha : apart l r) (hl : l.seq = .attached) (hr : r.seq = .attached)
    (hi : Slot.ofByte l.slot = some i) (hj : Slot.ofByte r.slot = some j) : j = i.peer := by
  refine (slot_eq_or_peer i j).resolve_left fun hji => ha.2 hl hr ?_
  rw [(ofByte_eq_some _ _).1 hi, (ofByte_eq_some _ _).1 hj, hji]

theorem shmLink_detachFrom (h : ShmLink n s s.me r) (hq : s.me.seq = .attached) {i : Slot}
    (hi : Slot.ofByte s.me.slot = some i) (hwf : s.store.wf = true) :
    ShmLink n (detachFrom s i) (detachFrom s i).me r := by
  obtain ⟨hle, _, _, hinit, _⟩ := (attachmentOk_attached hq).1 h.own
  have hb : bystander s.me.detached := bystander_of_seq (.inl rfl)
  by_cases hpeer : s.store.alive i.peer = 0x00
  · rw [detachFrom_of_peer_gone hwf hpeer, shmLink_setMe]
    refine ⟨(attachmentOk_detached rfl).2 hle, fun hn => ?_⟩
    obtain ⟨hr, ha⟩ := h.beside hn
    have hleft : r.seq ≠ .attached := fun hq' => by
      obtain ⟨_, _, _, _, j, hj, hone⟩ := (attachmentOk_attached hq').1 hr
      exact slot_ne_of_alive hpeer hone (peer_of_apart ha hq hq' hi hj)
    exact ⟨hr.of_bystander ⟨hr.not_creating hinit, hleft⟩ le_rfl fun _ => nofun, hb.apart⟩
  · rw [detachFrom_of_peer_present hwf hpeer, shmLink_setMe]
    refine ⟨(attachmentOk_detached rfl).2 hle, fun hn => ?_⟩
    obtain ⟨hr, ha⟩ := h.beside hn
    refine ⟨hr.editStore (hr.not_creating hinit) (keepsInit_leaveSlot s.store i hwf).2 fun j hq' hj hone => ?_, hb.apart⟩
    obtain rfl := peer_of_apart ha hq hq' hi hj
    exact (alive_leaveSlot hwf i).trans hone

end

/-! Response ports (R14, R65; log 15) -/

/-- What the port of the side with local state `l` holds is a response frame. -/
def portOk (l : SideState) : Prop := ∀ bytes, l.host.response = some bytes → ∃ i, decodeResponse bytes = .ok i

theorem decodeResponse_encode {f : Instr} (h : f.kind = .response) : decodeResponse (encode f) = .ok f := by
  have hframe : decodeFrame (encode f) = .ok f := decodeFrame_encode (by rw [h]; nofun)
  simp only [decodeResponse, hframe, h, if_true]

theorem portOk_ended {l : SideState} {f : Instr} (h : f.kind = .response) : portOk (l.ended (encode f)) :=
  fun _ hb => ⟨f, Option.some.inj hb ▸ decodeResponse_encode h⟩

theorem portOk_respond (s : State) {f : Instr} (h : f.kind = .response) : portOk (s.respond f).me := by
  rw [State.respond, setMe_me]
  exact portOk_ended h

/-! Moves that leave the store to itself -/

/-- From `s` to `t` the store stays, and the acting side's port keeps holding response frames. -/
structure OwnMove (s t : State) : Prop where
  store : t.store = s.store
  storeExists : t.storeExists = s.storeExists
  storeGen : t.storeGen = s.storeGen
  port : portOk s.me → portOk t.me

section
variable {s t u : State}

theorem OwnMove.refl (s : State) : OwnMove s s := ⟨rfl, rfl, rfl, id⟩

theorem OwnMove.trans (h : OwnMove s t) (hu : OwnMove t u) : OwnMove s u :=
  ⟨hu.store.trans h.store, hu.storeExists.trans h.storeExists, hu.storeGen.trans h.storeGen, hu.port ∘ h.port⟩

theorem OwnMove.ite {c : Prop} [Decidable c] (ht : OwnMove s t) (hu : OwnMove s u) :
    OwnMove s (if c then t else u) := by
  split
  · exact ht
  · exact hu

theorem OwnMove.sameAttachments (h : OwnMove s t) : sameAttachments s t :=
  sameAttachments_of_store h.store h.storeExists h.storeGen

theorem OwnMove.setMe (h : OwnMove s t) {l : SideState} (hp : portOk t.me → portOk l) : OwnMove s (t.setMe l) :=
  h.trans ⟨setMe_store t l, setMe_storeExists t l, setMe_storeGen t l, fun ht => (setMe_me t l).symm ▸ hp ht⟩
theorem OwnMove.respond (h : OwnMove s t) {f : Instr} (hf : f.kind = .response) : OwnMove s (t.respond f) :=
  h.setMe fun _ => portOk_ended hf
/-- A command that ends overwrites the port, whatever the side became (R14). -/
theorem OwnMove.answer (h : OwnMove s t) (l : SideState) {f : Instr} (hf : f.kind = .response) :
    OwnMove s ((t.setMe l).respond f) := by
  rw [setMe_respond]
  exact h.setMe fun _ => portOk_ended hf
theorem OwnMove.receive (h : OwnMove s t) (f : Instr) : OwnMove s (t.receive f) := h.setMe fun _ => nofun
theorem OwnMove.afterDraw (h : OwnMove s t) : OwnMove s t.afterDraw :=
  h.trans ⟨afterDraw_store t, afterDraw_storeExists t, afterDraw_storeGen t, fun ht => (afterDraw_me t).symm ▸ ht⟩
theorem OwnMove.setLock (h : OwnMove s t) (o : Option Side) : OwnMove s { t with lockOwner := o } :=
  h.trans ⟨rfl, rfl, rfl, id⟩
theorem OwnMove.setC2P (h : OwnMove s t) (q : Fifo) : OwnMove s { t with c2p := q } := h.trans ⟨rfl, rfl, rfl, id⟩
theorem OwnMove.setP2C (h : OwnMove s t) (q : Fifo) : OwnMove s { t with p2c := q } := h.trans ⟨rfl, rfl, rfl, id⟩
theorem OwnMove.attachFails (h : OwnMove s t) : OwnMove s t.attachFails := h.answer _ rfl
theorem OwnMove.pipeAttachFails (h : OwnMove s t) (st : Byte) : OwnMove s (t.pipeAttachFails st) :=
  h.answer _ rfl
theorem OwnMove.discard (h : OwnMove s t) (rest : List Byte) : OwnMove s (cDiscard t rest) := (h.setP2C _).setMe id

end

section
variable (s : State)

theorem ownMove_pollInit : OwnMove s (pollInit s) :=
  have counted : OwnMove s (s.setMe { s.me with polls := s.me.polls + 1 }) := (OwnMove.refl s).setMe id
  .ite (OwnMove.refl s).attachFails (.ite ((OwnMove.refl s).setMe id) (.ite counted.attachFails counted))

theorem ownMove_tryLock (d c : Byte) : OwnMove s (tryLock s d c) :=
  have tried (u : State) (granted : Bool) : OwnMove u (lockAcquire u granted d c) :=
    .ite ((OwnMove.refl u).setLock _) ((OwnMove.refl u).respond rfl)
  .ite ((OwnMove.refl s).afterDraw.trans (tried _ _)) (tried s true)

theorem ownMove_unlinkedAnswer : OwnMove s (unlinkedAnswer s) := by
  unfold unlinkedAnswer
  cases s.me.cmd with
  | update | attach | detach => exact (OwnMove.refl s).respond rfl
  | none | query | illegal => exact .refl s

theorem ownMove_trivialAnswer : OwnMove s (trivialAnswer s) := by
  unfold trivialAnswer
  cases s.me.cmd with
  | update | detach => exact (OwnMove.refl s).respond rfl
  | attach => exact .ite ((OwnMove.refl s).respond rfl) ((OwnMove.refl s).respond rfl)
  | none | query | illegal => exact .refl s

/-! The pipe child's µ-ops (R129 to R132) -/

theorem ownMove_cSend : OwnMove s (cSend s) := ((OwnMove.refl s).setC2P _).setMe id

theorem ownMove_cPollAgain : OwnMove s (cPollAgain s) :=
  have counted : OwnMove s (s.setMe { s.me with polls := s.me.polls + 1 }) := (OwnMove.refl s).setMe id
  .ite ((counted.setC2P _).pipeAttachFails _) counted

theorem ownMove_cRecv : OwnMove s (cRecv s) := by
  have popped (rest : List Byte) : OwnMove s (s.popP2C rest) := (OwnMove.refl s).setP2C _
  unfold cRecv
  split
  case h_1 => exact .ite ((popped _).answer _ rfl) (((popped _).setC2P _).pipeAttachFails _)
  case h_2 | h_3 | h_4 => exact ((OwnMove.refl s).discard _).trans (ownMove_cPollAgain _)
  case h_5 => exact .ite (((OwnMove.refl s).setC2P _).pipeAttachFails _) (ownMove_cPollAgain s)

theorem ownMove_cAnswer (d c : Byte) (result : Option Byte) : OwnMove s (cAnswer s d c result) :=
  have requested : OwnMove s (cRequest s d c) := .ite (.refl s) (((OwnMove.refl s).setC2P _).setMe id)
  requested.respond rfl

theorem ownMove_cAnswered (d c nd nc fl st : Byte) : OwnMove s (cAnswered s d c nd nc fl st) :=
  have answered : OwnMove s (s.setMe (s.me.answered fl st)) := (OwnMove.refl s).setMe id
  .ite (answered.respond rfl) (answered.trans (ownMove_cAnswer _ d c _))

theorem ownMove_cReceive (d c : Byte) : OwnMove s (cReceive s d c) := by
  unfold cReceive
  split
  case h_1 => exact ownMove_cAnswer s d c none
  case h_2 => exact ((OwnMove.refl s).setP2C _).trans (ownMove_cAnswered _ d c _ _ _ _)
  case h_3 | h_4 | h_5 => exact ((OwnMove.refl s).discard _).trans (ownMove_cAnswer _ d c none)

theorem ownMove_cAccumulate (e : Word) : OwnMove s (cAccumulate s e) := (OwnMove.refl s).setMe id

theorem ownMove_cUpdate (d c : Byte) : OwnMove s (cUpdate s d c) :=
  .ite (((OwnMove.refl s).setC2P _).answer _ rfl) (.ite (ownMove_cReceive s d c) (ownMove_cAnswer s d c none))

theorem ownMove_cClose : OwnMove s (cClose s) :=
  have said : OwnMove s (if s.p2c.closed then s else s.pushC2P .detach) :=
    .ite (.refl s) ((OwnMove.refl s).setC2P _)
  (said.setC2P _).answer _ rfl

theorem ownMove_execCSendAttach : EndsIn (OwnMove s) (execCSendAttach s) := by
  have drawn := (OwnMove.refl s).afterDraw
  unfold execCSendAttach
  split
  · exact endsIn_next (.ite ((drawn.setC2P _).pipeAttachFails _) (.ite (drawn.trans (ownMove_cSend _)) drawn))
  · exact endsIn_next (.refl s)

end

/-! The ports after every meaning -/

theorem portOk_createOrOpen {s : State} (h : portOk s.me) (fail : Bool) : portOk (createOrOpen s fail).me := by
  unfold createOrOpen
  split_ifs
  · exact portOk_respond s rfl
  · rwa [setMe_me]
  · rwa [setMe_me]

theorem portOk_claimSlot {s : State} : portOk (claimSlot s).me := by
  unfold claimSlot
  split
  · exact portOk_respond _ rfl
  · split <;> exact portOk_respond _ rfl

theorem portOk_pOpen (s : State) (fail : Bool) : portOk (pOpen s fail).me := by
  unfold pOpen
  split <;> exact portOk_respond _ rfl

/-- What `respond` hands over is a response frame, and nothing else writes a port (R14, R65). -/
theorem portOk_of_exec {i : Instr} {s t : State} (h : portOk s.me) (he : exec i s = .next t) : portOk t.me := by
  suffices hends : EndsIn (fun u => portOk u.me) (exec i s) from hends t he
  have guarded {r : Result} (hr : EndsIn (fun u => portOk u.me) r) :
      EndsIn (fun u => portOk u.me) (whenEnabled s i r) := endsIn_whenEnabled h fun _ => hr
  have own {u : State} (hu : OwnMove s u) : EndsIn (fun u => portOk u.me) (.next u) := endsIn_next (hu.port h)
  have start := OwnMove.refl s
  cases i with
  | attach | detach | query | update => exact guarded (own (start.setMe id))
  | attachRsp | detachRsp | queryRsp | errorRsp => exact own (start.receive _)
  | updateRsp => exact own ((start.receive _).setMe id)
  | createOrOpen => exact guarded (endsIn_next (portOk_createOrOpen (start.afterDraw.port h) _))
  | initRegion => exact guarded (endsIn_needStore (by rwa [initRegion, setMe_me]))
  | publish => exact guarded (endsIn_needStore (portOk_respond _ rfl))
  | pollInit => exact guarded (own (ownMove_pollInit s))
  | claimSlot => exact guarded (endsIn_next portOk_claimSlot)
  | detachExec => exact guarded (endsIn_atOwnSlot fun _ => portOk_respond _ rfl)
  | lockAcquire => exact guarded (endsIn_onUpdate h fun _ d c => own (ownMove_tryLock s d c))
  | commit => exact guarded (endsIn_onUpdate h fun _ _ _ => endsIn_atOwnSlot fun _ => portOk_respond _ rfl)
  | unlinkedExec => exact guarded (own (ownMove_unlinkedAnswer s))
  | queryExec => exact guarded (own (start.respond rfl))
  | pOpen => exact guarded (endsIn_next (portOk_pOpen _ _))
  | pUpdate => exact guarded (endsIn_onUpdate h fun _ _ _ => endsIn_needStore (portOk_respond _ rfl))
  | pClose => exact guarded (endsIn_next (portOk_respond _ rfl))
  | cSendAttach => exact fun u hu => (ownMove_execCSendAttach s u hu).port h
  | cRecvAttach => exact guarded (own (ownMove_cRecv s))
  | cUpdate => exact guarded (endsIn_onUpdate h fun _ d c => own ((ownMove_cAccumulate s _).trans (ownMove_cUpdate _ d c)))
  | cClose => exact guarded (own (ownMove_cClose s))
  | trivialExec => exact guarded (own (ownMove_trivialAnswer s))
  | illegalExec => exact guarded (own (start.answer _ rfl))

/-! The link as the acting side sees it -/

/-- What R89 says of the acting side, of mode `m` with local state `l`, and of the other, of mode `n` with `r`. -/
structure LinkFrom (m n : Mode) (t : State) (l r : SideState) : Prop where
  mine : m = .shm → ShmLink n t l r
  other : n = .shm → attachmentOk t r
  parent : m = .pipeParent → l.seq = .attached → t.storeExists = true
  otherParent : n = .pipeParent → r.seq = .attached → t.storeExists = true

theorem shmPairOk_iff (s : State) (X : Side) : shmPairOk s ↔ apart (s.side X) (s.side (otherSide X)) := by
  cases X
  · exact Iff.rfl
  · exact apart_comm

theorem modes_shm_iff (p : Params) (X : Side) :
    (p.modeA = .shm ∧ p.modeB = .shm) ↔ (p.mode X = .shm ∧ p.mode (otherSide X) = .shm) := by
  cases X
  · exact Iff.rfl
  · exact and_comm

theorem linkOk_iff (s : State) (X : Side) :
    linkOk s ↔
      LinkFrom (s.cfg.mode X) (s.cfg.mode (otherSide X)) s (s.side X) (s.side (otherSide X)) ∧ lockOk s := by
  constructor
  · rintro ⟨hside, hpair, hparent, hlock⟩
    have hattach (Y : Side) (hm : s.cfg.mode Y = .shm) := (shmSideOk_iff s Y).1 (hside Y hm)
    refine ⟨⟨fun hm => ⟨hattach X hm, fun hn => ⟨hattach _ hn, (shmPairOk_iff s X).1 ?_⟩⟩, hattach _,
      hparent X, hparent _⟩, hlock⟩
    obtain ⟨hA, hB⟩ := (modes_shm_iff s.cfg X).2 ⟨hm, hn⟩
    exact hpair hA hB
  · rintro ⟨⟨hmine, hother, hparent, hparent'⟩, hlock⟩
    refine ⟨fun Y hm => (shmSideOk_iff s Y).2 ?_, fun hA hB => ?_, fun Y hm => ?_, hlock⟩
    · obtain rfl | rfl := eq_or_eq_otherSide X Y
      · exact (hmine hm).own
      · exact hother hm
    · obtain ⟨hm, hn⟩ := (modes_shm_iff s.cfg X).1 ⟨hA, hB⟩
      exact (shmPairOk_iff s X).2 ((hmine hm).beside hn).2
    · obtain rfl | rfl := eq_or_eq_otherSide X Y
      · exact hparent hm
      · exact hparent' hm

/-- What R11 leaves to the mode `n` beside `m`. -/
structure LegalBeside (m n : Mode) : Prop where
  shm : m = .shm → n ≠ .pipeParent
  parent : m = .pipeParent → n ≠ .shm ∧ n ≠ .pipeParent
  child : m = .pipeChild → n ≠ .shm

theorem legalBeside_of_legal {p : Params} (h : p.legalModePair = true) (X : Side) :
    LegalBeside (p.mode X) (p.mode (otherSide X)) := by
  obtain ⟨hA, hB⟩ | ⟨hA, hB⟩ | ⟨hA, hB⟩ | hA | hB := (legalModePair_iff p).1 h <;> cases X <;>
    constructor <;> simp [Params.mode, otherSide, *]

section
variable {m n : Mode} {s t : State} {l l' r : SideState}

theorem LinkFrom.of_shm (hm : m = .shm) (hp : LegalBeside m n) (h : ShmLink n t l r) : LinkFrom m n t l r :=
  ⟨fun _ => h, fun hn => (h.beside hn).1, by simp [hm], fun hn => absurd hn (hp.shm hm)⟩

theorem LinkFrom.of_parent (hm : m = .pipeParent) (hp : LegalBeside m n)
    (h : l.seq = .attached → t.storeExists = true) : LinkFrom m n t l r :=
  ⟨by simp [hm], fun hn => absurd hn (hp.parent hm).1, fun _ => h, fun hn => absurd hn (hp.parent hm).2⟩

theorem LinkFrom.of_child (h : LinkFrom m n s l r) (hm : m = .pipeChild) (hp : LegalBeside m n)
    (he : t.storeExists = s.storeExists) : LinkFrom m n t l' r :=
  ⟨by simp [hm], fun hn => absurd hn (hp.child hm), by simp [hm], fun hn hq => he.trans (h.otherParent hn hq)⟩

/-- A move that keeps what the link's sides hold. -/
theorem LinkFrom.sameHold (h : LinkFrom m n s l r) (hsame : sameAttachments s t) (hq : l'.seq = l.seq)
    (hl : m = .shm → SameHold l l') : LinkFrom m n t l' r :=
  ⟨fun hm => (h.mine hm).sameHold hsame (hl hm), fun hn => hsame.attachmentOk_iff.2 (h.other hn),
    fun hm ha => hsame.1.trans (h.parent hm (hq.symm.trans ha)), fun hn ha => hsame.1.trans (h.otherParent hn ha)⟩

theorem LinkFrom.setMe (h : LinkFrom m n s s.me r) (hq : l.seq = s.me.seq) (hl : m = .shm → SameHold s.me l) :
    LinkFrom m n (s.setMe l) (s.setMe l).me r := by
  rw [setMe_me]
  exact h.sameHold (sameAttachments_setMe s l) hq hl

/-- A response that does not cut an attach handshake short (R31). -/
theorem LinkFrom.respond (h : LinkFrom m n s s.me r) (f : Instr)
    (hc : m = .shm → s.me.cmd = .attach → s.me.seq = .detached ∨ s.me.seq = .attached) :
    LinkFrom m n (s.respond f) (s.respond f).me r :=
  h.setMe rfl fun hm => ⟨rfl, rfl, rfl, fun ha => (hc hm ha).imp_right .inl⟩

/-! The port adapter's µ-ops (R110 to R117) -/

theorem cmd_ne_attach_of_isUpdate (h : l.cmd.isUpdate = true) : l.cmd ≠ .attach := by
  intro ha
  simp [ha, Cmd.isUpdate] at h

theorem linkFrom_tryLock (h : LinkFrom m n s s.me r) (hu : s.me.cmd.isUpdate = true) (d c : Byte) :
    LinkFrom m n (tryLock s d c) (tryLock s d c).me r := by
  have hne := cmd_ne_attach_of_isUpdate hu
  have hdrawn : LinkFrom m n s.afterDraw s.afterDraw.me r := by
    rw [afterDraw_me]
    exact h.sameHold (OwnMove.refl s).afterDraw.sameAttachments rfl fun _ => ⟨rfl, rfl, rfl, fun ha => absurd ha hne⟩
  have tried (u : State) (granted : Bool) (hl : LinkFrom m n u u.me r) (hc : u.me.cmd ≠ .attach) :
      LinkFrom m n (lockAcquire u granted d c) (lockAcquire u granted d c).me r := by
    unfold lockAcquire
    split
    · exact hl.sameHold (sameAttachments_of_store rfl rfl rfl) rfl fun _ => ⟨rfl, rfl, rfl, fun ha => absurd ha hc⟩
    · exact hl.respond _ fun _ ha => absurd ha hc
  unfold tryLock
  split
  · exact tried _ _ hdrawn (by rwa [afterDraw_me])
  · exact tried _ _ h hne

theorem sameAttachments_protocolStep (hwf : s.store.wf = true) (T : Half) (i : Slot) (e : Word) (d c : Byte) :
    sameAttachments s { s with store := (protocolStep T s.store i e d c).store } :=
  have hread := (writesAsStep_protocolStep T s.store i e d c hwf).2
  ⟨rfl, rfl, hread initOffset (.inl (by decide)), fun j => hread _ (stepLeaves_alive j)⟩

theorem afterStep_holds (l : SideState) (q : StepResult) :
    (l.afterStep q).seq = l.seq ∧ (l.afterStep q).slot = l.slot ∧ (l.afterStep q).gen = l.gen := by
  unfold SideState.afterStep
  cases q.log <;> exact ⟨rfl, rfl, rfl⟩

theorem linkFrom_commitUpdate (h : LinkFrom m n s s.me r) (hu : s.me.cmd.isUpdate = true) (hwf : s.store.wf = true)
    (i : Slot) (e : Word) (d c : Byte) :
    LinkFrom m n (commitUpdate s i e d c) (commitUpdate s i e d c).me r := by
  obtain ⟨hseq, hslot, hgen⟩ := afterStep_holds s.me (protocolStep s.cfg.transferThreshold s.store i e d c)
  have hne := cmd_ne_attach_of_isUpdate hu
  have hstepped : LinkFrom m n
      { s with lockOwner := none, store := (protocolStep s.cfg.transferThreshold s.store i e d c).store } s.me r :=
    h.sameHold (sameAttachments_protocolStep hwf _ i e d c) rfl fun _ => ⟨rfl, rfl, rfl, fun ha => absurd ha hne⟩
  rw [commitUpdate, State.ownStep, setMe_respond]
  exact hstepped.setMe hseq fun _ => ⟨hseq, hslot, hgen, fun ha => absurd ha hne⟩

/-- An UNLINKED side only answers (R114). -/
theorem linkFrom_unlinkedAnswer (h : LinkFrom m n s s.me r) (hm : m = .unlinked) :
    LinkFrom m n (unlinkedAnswer s) (unlinkedAnswer s).me r := by
  have answered (f : Instr) := h.respond f (by simp [hm])
  unfold unlinkedAnswer
  cases s.me.cmd with
  | update | attach | detach => exact answered _
  | none | query | illegal => exact h

/-- TRIVIAL_EXEC answers an SHM side's ATTACH only where it is attached (R116). -/
theorem attached_of_trivialPair {cmd : Cmd} {seq : Seq} (h : trivialPair .shm cmd seq = true) (hc : cmd = .attach) :
    seq = .attached := by
  subst hc
  cases seq with
  | attached => rfl
  | _ => cases h

theorem linkFrom_trivialAnswer (h : LinkFrom s.mode n s s.me r) (ht : trivialPair s.mode s.me.cmd s.me.seq = true) :
    LinkFrom s.mode n (trivialAnswer s) (trivialAnswer s).me r := by
  have answered (f : Instr) := h.respond f fun hm ha => .inr (attached_of_trivialPair (hm ▸ ht) ha)
  unfold trivialAnswer
  cases s.me.cmd with
  | update | detach => exact answered _
  | attach =>
    dsimp only
    split <;> exact answered _
  | none | query | illegal => exact h

/-! The pipe parent's µ-ops (R125 to R128) -/

theorem pOpen_storeExists (fail : Bool) (h : (pOpen s fail).me.seq = .attached) : (pOpen s fail).storeExists = true := by
  unfold pOpen at h ⊢
  split_ifs at h ⊢
  · simp [State.pipeAttachFails] at h
  · simp

theorem pClose_seq : (pClose s).me.seq = .closed := by simp [pClose]

theorem pUpdate_storeExists (e : Word) (d c : Byte) :
    ((service s).ownStep .zero e d c).storeExists = s.storeExists := by
  simp [State.ownStep, service_storeExists]

end

/-! The link after every meaning -/

theorem linkFrom_of_exec {i : Instr} {s t : State} {n : Mode} {r : SideState} (hp : LegalBeside s.mode n)
    (hwf : s.store.wf = true) (h : LinkFrom s.mode n s s.me r) (he : exec i s = .next t) :
    LinkFrom s.mode n t t.me r := by
  suffices hends : EndsIn (fun u => LinkFrom s.mode n u u.me r) (exec i s) from hends t he
  have guarded {q : Result} (hq : enabled s i = true → EndsIn (fun u => LinkFrom s.mode n u u.me r) q) :
      EndsIn (fun u => LinkFrom s.mode n u u.me r) (whenEnabled s i q) := endsIn_whenEnabled h hq
  have issued (cmd : Cmd) (hc : s.me.cmd = .none) : LinkFrom s.mode n (s.issue cmd) (s.issue cmd).me r :=
    h.setMe rfl fun _ => ⟨rfl, rfl, rfl, by simp [hc]⟩
  have received (f : Instr) : LinkFrom s.mode n (s.receive f) (s.receive f).me r :=
    h.setMe rfl fun _ => ⟨rfl, rfl, rfl, fun ha => .inr (.inr ha)⟩
  cases i with
  | attach | detach | query | update =>
    exact guarded fun hon => endsIn_next (issued _ (of_decide_eq_true hon).1)
  | attachRsp | detachRsp | queryRsp | errorRsp => exact endsIn_next (received _)
  | updateRsp => exact endsIn_next ((received _).setMe rfl fun _ => ⟨rfl, rfl, rfl, fun ha => .inr (.inr ha)⟩)
  | createOrOpen =>
    refine guarded fun hon => endsIn_next ?_
    obtain ⟨hm, hc, hq⟩ := of_decide_eq_true hon
    have hdrawn : ShmLink n s.afterDraw s.afterDraw.me r := by
      rw [afterDraw_me]
      exact (h.mine hm).sameHold (OwnMove.refl s).afterDraw.sameAttachments ⟨rfl, rfl, rfl, fun ha => .inr (.inr ha)⟩
    exact .of_shm hm hp (shmLink_createOrOpen hdrawn (by rwa [afterDraw_me]) (by rwa [afterDraw_me]) _)
  | initRegion =>
    refine guarded fun hon => endsIn_needStore ?_
    obtain ⟨hm, hq⟩ := of_decide_eq_true hon
    exact .of_shm hm hp (shmLink_initRegion (h.mine hm) hq hwf)
  | publish =>
    refine guarded fun hon => endsIn_needStore ?_
    obtain ⟨hm, hq⟩ := of_decide_eq_true hon
    exact .of_shm hm hp (shmLink_publish (h.mine hm) hq hwf)
  | pollInit =>
    refine guarded fun hon => endsIn_next ?_
    obtain ⟨hm, hq⟩ := of_decide_eq_true hon
    exact .of_shm hm hp (shmLink_pollInit (h.mine hm) hq)
  | claimSlot =>
    refine guarded fun hon => endsIn_next ?_
    obtain ⟨hm, hq, _⟩ := of_decide_eq_true hon
    exact .of_shm hm hp (shmLink_claimSlot (h.mine hm) hq hwf)
  | detachExec =>
    refine guarded fun hon u hu => ?_
    obtain ⟨hm, _, hq, _⟩ := of_decide_eq_true hon
    obtain ⟨_, k, hk, hleft⟩ := (atOwnSlot_eq_next s u _).1 hu
    cases hleft
    exact .of_shm hm hp (shmLink_detachFrom (h.mine hm) hq hk hwf)
  | lockAcquire =>
    refine guarded fun hon => endsIn_onUpdate h fun _ d c => endsIn_next ?_
    obtain ⟨_, hu, _, _⟩ := of_decide_eq_true hon
    exact linkFrom_tryLock h hu d c
  | commit =>
    refine guarded fun hon => endsIn_onUpdate h fun e d c => endsIn_atOwnSlot fun k => ?_
    exact linkFrom_commitUpdate h (isUpdate_of_enabled_commit hon) hwf k e d c
  | unlinkedExec =>
    refine guarded fun hon => endsIn_next ?_
    obtain ⟨hm, _⟩ := of_decide_eq_true hon
    exact linkFrom_unlinkedAnswer h hm
  | queryExec => exact guarded fun hon => endsIn_next (h.respond _ (by simp [of_decide_eq_true hon]))
  | pOpen =>
    refine guarded fun hon => endsIn_next ?_
    obtain ⟨hm, _⟩ := of_decide_eq_true hon
    exact .of_parent hm hp (pOpen_storeExists _)
  | pUpdate =>
    refine guarded fun hon => endsIn_onUpdate h fun e d c => endsIn_needStore ?_
    obtain ⟨hm, _, hq⟩ := of_decide_eq_true hon
    exact .of_parent hm hp fun _ => (pUpdate_storeExists e d c).trans (h.parent hm hq)
  | pClose =>
    refine guarded fun hon => endsIn_next ?_
    obtain ⟨hm, _⟩ := of_decide_eq_true hon
    exact .of_parent hm hp (by simp [pClose_seq])
  | cSendAttach =>
    intro u hu
    by_cases hm : s.mode = .pipeChild
    · exact h.of_child hm hp (ownMove_execCSendAttach s u hu).storeExists
    · have hwaits : execCSendAttach s = .next s := if_neg fun hc => hm hc.1
      cases hwaits.symm.trans hu
      exact h
  | cRecvAttach =>
    refine guarded fun hon => endsIn_next ?_
    obtain ⟨hm, _⟩ := of_decide_eq_true hon
    exact h.of_child hm hp (ownMove_cRecv s).storeExists
  | cUpdate =>
    refine guarded fun hon => endsIn_onUpdate h fun _ d c => endsIn_next ?_
    obtain ⟨hm, _⟩ := of_decide_eq_true hon
    exact h.of_child hm hp (((ownMove_cAccumulate s _).trans (ownMove_cUpdate _ d c)).storeExists)
  | cClose =>
    refine guarded fun hon => endsIn_next ?_
    obtain ⟨hm, _⟩ := of_decide_eq_true hon
    exact h.of_child hm hp (ownMove_cClose s).storeExists
  | trivialExec => exact guarded fun hon => endsIn_next (linkFrom_trivialAnswer h hon)
  | illegalExec =>
    refine guarded fun hon => endsIn_next ?_
    rw [setMe_respond]
    exact h.setMe rfl fun _ => ⟨rfl, rfl, rfl, by simp [of_decide_eq_true hon]⟩


/-! The lock (R54) -/

/-- Side `X` is inside an attached SHM side's UPDATE. -/
def mayHoldLock (s : State) (X : Side) : Prop :=
  s.cfg.mode X = .shm ∧ (s.side X).seq = .attached ∧ (s.side X).cmd.isUpdate = true

theorem mayHoldLock_congr {s t : State} {X : Side} (hcfg : t.cfg = s.cfg) (hseq : (t.side X).seq = (s.side X).seq)
    (hcmd : (t.side X).cmd = (s.side X).cmd) (h : mayHoldLock s X) : mayHoldLock t X := by
  simpa only [mayHoldLock, hcfg, hseq, hcmd] using h

/-- Inside its UPDATE the lock's holder has no other µ-op than COMMIT, and no request (R3, R78). -/
theorem eq_commit_of_holder {s : State} {i : Instr} (h : mayHoldLock s s.turn) (hl : s.lockOwner = some s.turn)
    (hon : enabled s i = true) : i = .commit ∨ i.kind = .response := by
  obtain ⟨hm, hq, hu⟩ := h
  have hq' : s.me.seq = .attached := hq
  cases hk : i.kind with
  | response => exact .inr rfl
  | request =>
    have hnone : s.me.cmd = .none := by
      cases i with
      | attach | detach | query | update => exact (of_decide_eq_true hon).1
      | _ => cases hk
    exact absurd hu (by simp [show (s.side s.turn).cmd = .none from hnone, Cmd.isUpdate])
  | uop =>
    have hselected := enabledUopIsSelected s i hk hon (by simp [hq']) fun _ => hq
    rw [selected_of_shm_update hm hu hq, if_pos (decide_eq_true hl)] at hselected
    exact .inl (Option.some.inj hselected).symm

/-- A response leaves the acting side's place in the sequence and its command (R16). -/
theorem me_of_response {i : Instr} {s t : State} (hk : i.kind = .response) (he : exec i s = .next t) :
    t.me.seq = s.me.seq ∧ t.me.cmd = s.me.cmd := by
  cases i with
  | attachRsp | detachRsp | queryRsp | updateRsp | errorRsp => cases he; simp
  | _ => cases hk

theorem commit_releases {s t : State} (hon : enabled s .commit = true) (he : exec .commit s = .next t) :
    t.lockOwner = none := by
  obtain ⟨e, d, c, hcmd⟩ := exists_update_of_isUpdate (isUpdate_of_enabled_commit hon)
  have hrun : exec .commit s = atOwnSlot s fun k => .next (commitUpdate s k e d c) :=
    (whenEnabled_of_enabled hon _).trans (by simp only [onUpdate, hcmd])
  obtain ⟨_, k, _, hk⟩ := (atOwnSlot_eq_next s t _).1 (hrun.symm.trans he)
  cases hk
  exact commitUpdate_lockOwner s k e d c

/-- After any action of the lock's holder the lock is free or its UPDATE goes on. -/
theorem holder_goes_on {i : Instr} {s t : State} (h : mayHoldLock s s.turn) (hl : s.lockOwner = some s.turn)
    (he : exec i s = .next t) : t.lockOwner = none ∨ (t.me.seq = s.me.seq ∧ t.me.cmd = s.me.cmd) := by
  cases hon : enabled s i with
  | true =>
    obtain rfl | hk := eq_commit_of_holder h hl hon
    · exact .inl (commit_releases hon he)
    · exact .inr (me_of_response hk he)
  | false =>
    have hwaits : exec i s = .next s := by
      by_cases hi : i = .cSendAttach
      · subst hi
        exact if_neg fun hc => absurd (h.1.symm.trans hc.1) (by decide)
      · exact notEnabledWaits s i hon hi
    cases hwaits.symm.trans he
    exact .inr ⟨rfl, rfl⟩

/-- A try that takes the lock leaves the side as it was (R110). -/
theorem lockAcquire_me_of_taken {s : State} {granted : Bool} {d c : Byte} (hfree : s.lockOwner = none)
    (ht : (lockAcquire s granted d c).lockOwner ≠ none) : (lockAcquire s granted d c).me = s.me := by
  unfold lockAcquire at ht ⊢
  split_ifs at ht ⊢
  · rfl
  · exact absurd ((passThrough_lockOwner s d c _).trans hfree) ht

theorem tryLock_me_of_taken {s : State} {d c : Byte} (hfree : s.lockOwner = none)
    (ht : (tryLock s d c).lockOwner ≠ none) : (tryLock s d c).me = s.me := by
  unfold tryLock at ht ⊢
  split_ifs at ht ⊢
  · exact (lockAcquire_me_of_taken ((afterDraw_lockOwner s).trans hfree) ht).trans (afterDraw_me s)
  · exact lockAcquire_me_of_taken hfree ht

/-- A lock that LOCK_ACQUIRE has taken is held inside the same UPDATE (R110). -/
theorem mayHoldLock_of_acquired {s t : State} (hfree : s.lockOwner = none) (ht : t.lockOwner ≠ none)
    (he : exec .lockAcquire s = .next t) : mayHoldLock s s.turn ∧ t.me = s.me := by
  cases hon : enabled s .lockAcquire with
  | false =>
    cases (notEnabledWaits s .lockAcquire hon nofun).symm.trans he
    exact absurd hfree ht
  | true =>
    obtain ⟨hm, hu, hq, _⟩ := of_decide_eq_true hon
    obtain ⟨e, d, c, hcmd⟩ := exists_update_of_isUpdate hu
    have hnext : exec .lockAcquire s = .next (tryLock s d c) :=
      (whenEnabled_of_enabled hon _).trans (by simp only [onUpdate, hcmd])
    cases hnext.symm.trans he
    exact ⟨⟨hm, hq, hu⟩, tryLock_me_of_taken hfree ht⟩

/-! What every action leaves: the turn and the other side's local state (R155) -/

theorem Change.frame {i : Instr} {s t : State} (h : Change i s t) :
    t.turn = s.turn ∧ t.side (otherSide s.turn) = s.side (otherSide s.turn) := by
  cases h with
  | setMe l => exact ⟨setMe_turn s l, setMe_side_other s l⟩
  | draw => exact ⟨afterDraw_turn s, afterDraw_side s _⟩
  | _ => exact ⟨rfl, rfl⟩

theorem frame_of_exec {i : Instr} {s t : State} (h : exec i s = .next t) :
    t.cfg = s.cfg ∧ t.turn = s.turn ∧ t.side (otherSide s.turn) = s.side (otherSide s.turn) := by
  refine (changes_of_exec h).keep
    (P := fun u => u.cfg = s.cfg ∧ u.turn = s.turn ∧ u.side (otherSide s.turn) = s.side (otherSide s.turn))
    (fun u v huv hu => ?_) ⟨rfl, rfl, rfl⟩
  obtain ⟨hcfg, hturn, hother⟩ := hu
  obtain ⟨hturn', hother'⟩ := huv.frame
  rw [hturn] at hturn' hother'
  exact ⟨huv.cfg_eq.trans hcfg, hturn', hother'.trans hother⟩

theorem lockOk_of_exec {i : Instr} {s t : State} (h : lockOk s) (he : exec i s = .next t) : lockOk t := by
  obtain ⟨hcfg, hturn, hother⟩ := frame_of_exec he
  have hme : t.side s.turn = t.me := hturn ▸ rfl
  intro X hX
  show mayHoldLock t X
  cases lockMove_of_exec he with
  | kept ho =>
    rw [ho] at hX
    have hold := h X hX
    obtain rfl | rfl := eq_or_eq_otherSide s.turn X
    · obtain hfree | ⟨hseq, hcmd⟩ := holder_goes_on hold hX he
      · simp [hfree, hX] at ho
      · exact mayHoldLock_congr hcfg (hme ▸ hseq) (hme ▸ hcmd) hold
    · exact mayHoldLock_congr hcfg (congrArg _ hother) (congrArg _ hother) hold
  | created _ _ ho => simp [ho] at hX
  | acquired hi hfree ho =>
    subst hi
    obtain ⟨hold, hsame⟩ := mayHoldLock_of_acquired hfree (by simp [ho]) he
    obtain rfl : s.turn = X := Option.some.inj (ho.symm.trans hX)
    exact mayHoldLock_congr hcfg (by rw [hme, hsame]; rfl) (by rw [hme, hsame]; rfl) hold
  | released _ _ ho => simp [ho] at hX

/-! No safe state stops (R20, R34; log 21) -/

section
variable {s : State}

theorem whenEnabled_answers {i : Instr} {q : Result} (h : enabled s i = true → ∃ t, q = .next t) :
    ∃ t, whenEnabled s i q = .next t := by
  obtain ⟨hon, hw⟩ | ⟨_, hw⟩ := whenEnabled_cases s i q <;> rw [hw]
  · exact h hon
  · exact ⟨s, rfl⟩

theorem needStore_answers (h : s.storeExists = true) (t : State) : ∃ u, needStore s t = .next u :=
  ⟨t, (needStore_eq_next s t t).2 ⟨h, rfl⟩⟩

theorem onUpdate_answers {k : Word → Byte → Byte → Result} (h : ∀ e d c, ∃ t, k e d c = .next t) :
    ∃ t, onUpdate s k = .next t := by
  obtain ⟨e, d, c, _, hu⟩ | ⟨_, hu⟩ := onUpdate_cases s k <;> rw [hu]
  · exact h e d c
  · exact ⟨s, rfl⟩

/-- An attached SHM side has a store and a slot of it (R89). -/
theorem atOwnSlot_answers (h : attachmentOk s s.me) (hq : s.me.seq = .attached) (f : Slot → State) :
    ∃ t, atOwnSlot s (fun k => .next (f k)) = .next t := by
  obtain ⟨_, hexists, _, _, k, hk, _⟩ := (attachmentOk_attached hq).1 h
  exact ⟨f k, (atOwnSlot_eq_next s _ _).2 ⟨hexists, k, hk, rfl⟩⟩

theorem exec_answers (h : linkOk s) (i : Instr) : ∃ t, exec i s = .next t := by
  obtain ⟨⟨hmine, _, hparent, _⟩, hlock⟩ := (linkOk_iff s s.turn).1 h
  have attached (hm : s.mode = .shm) : attachmentOk s s.me := (hmine hm).own
  cases i with
  | attachRsp | detachRsp | queryRsp | updateRsp | errorRsp => exact ⟨_, rfl⟩
  | initRegion =>
    refine whenEnabled_answers fun hon => needStore_answers ?_ _
    obtain ⟨hm, hq⟩ := of_decide_eq_true hon
    obtain ⟨hexists, _⟩ := (attached hm).creatorOk (.inl hq)
    exact hexists
  | publish =>
    refine whenEnabled_answers fun hon => needStore_answers ?_ _
    obtain ⟨hm, hq⟩ := of_decide_eq_true hon
    obtain ⟨hexists, _⟩ := (attached hm).creatorOk (.inr hq)
    exact hexists
  | detachExec =>
    refine whenEnabled_answers fun hon => ?_
    obtain ⟨hm, _, hq, _⟩ := of_decide_eq_true hon
    exact atOwnSlot_answers (attached hm) hq _
  | commit =>
    refine whenEnabled_answers fun hon => onUpdate_answers fun _ _ _ => ?_
    obtain ⟨hm, hq, _⟩ := hlock _ (lockOwner_of_enabled_commit hon)
    exact atOwnSlot_answers (attached hm) hq _
  | pUpdate =>
    refine whenEnabled_answers fun hon => onUpdate_answers fun _ _ _ => ?_
    obtain ⟨hm, _, hq⟩ := of_decide_eq_true hon
    exact needStore_answers (hparent hm hq) _
  | lockAcquire | cUpdate => exact whenEnabled_answers fun _ => onUpdate_answers fun _ _ _ => ⟨_, rfl⟩
  | cSendAttach => exact execCSendAttach_eq_next s
  | _ => exact whenEnabled_answers fun _ => ⟨_, rfl⟩

/-! Safe states -/

/-- From a safe state every instruction answers a safe state. -/
theorem exec_safe (h : s.safe) (i : Instr) : ∃ t, exec i s = .next t ∧ t.safe := by
  obtain ⟨hlegal, hcanonical, hlink, hports⟩ := h
  obtain ⟨t, he⟩ := exec_answers hlink i
  obtain ⟨hcfg, hturn, hother⟩ := frame_of_exec he
  obtain ⟨hfrom, hlock⟩ := (linkOk_iff s s.turn).1 hlink
  have hme : t.side s.turn = t.me := hturn ▸ rfl
  refine ⟨t, he, by rwa [hcfg], (changes_of_exec he).keep (fun _ _ huv => huv.storeCanonical) hcanonical, ?_,
    fun X => ?_⟩
  · refine (linkOk_iff t s.turn).2 ⟨?_, lockOk_of_exec hlock he⟩
    rw [hcfg, hother, hme]
    exact linkFrom_of_exec (legalBeside_of_legal hlegal s.turn) hcanonical.1 hfrom he
  · show portOk (t.side X)
    obtain rfl | rfl := eq_or_eq_otherSide s.turn X
    · rw [hme]
      exact portOk_of_exec (hports s.turn) he
    · rw [hother]
      exact hports _

/-- The host's own moves: its inbox, its registers, and a command where there was none (R3, R42). -/
theorem setMe_safe (h : s.safe) (cmd : Cmd) (host : HostState) (hport : host.response = s.me.host.response)
    (hcmd : cmd = s.me.cmd ∨ s.me.cmd = .none) : (s.setMe { s.me with cmd := cmd, host := host }).safe := by
  obtain ⟨hlegal, ⟨hwf, hempty⟩, hlink, hports⟩ := h
  obtain ⟨hfrom, hlock⟩ := (linkOk_iff s s.turn).1 hlink
  have hmoved : LinkFrom s.mode (s.cfg.mode (otherSide s.turn)) (s.setMe { s.me with cmd := cmd, host := host })
      (s.setMe { s.me with cmd := cmd, host := host }).me (s.side (otherSide s.turn)) :=
    LinkFrom.setMe hfrom rfl fun _ => ⟨rfl, rfl, rfl, fun ha =>
      .inr (.inr (hcmd.elim (fun hc => hc.trans ha) fun hn => absurd (hn.symm.trans ha) (by decide)))⟩
  refine ⟨by rwa [setMe_cfg], ⟨by rwa [setMe_store], by rwa [setMe_store, setMe_storeExists]⟩,
    (linkOk_iff _ s.turn).2 ⟨?_, fun X hX => ?_⟩, fun X => ?_⟩
  · rw [setMe_cfg, setMe_side_other, setMe_side_turn]
    rwa [setMe_me] at hmoved
  · rw [setMe_lockOwner] at hX
    have hold : mayHoldLock s X := hlock X hX
    refine mayHoldLock_congr (setMe_cfg s _) ?_ ?_ hold <;> obtain rfl | rfl := eq_or_eq_otherSide s.turn X
    · rw [setMe_side_turn]; rfl
    · rw [setMe_side_other]
    · rw [setMe_side_turn]
      refine hcmd.resolve_right fun hn => ?_
      obtain ⟨_, _, hu⟩ := hold
      exact absurd hu (by simp [show (s.side s.turn).cmd = .none from hn, Cmd.isUpdate])
    · rw [setMe_side_other]
  · show portOk ((s.setMe _).side X)
    obtain rfl | rfl := eq_or_eq_otherSide s.turn X
    · rw [setMe_side_turn]
      exact fun bytes hb => hports s.turn bytes (hport.symm.trans hb)
    · rw [setMe_side_other]
      exact hports _

theorem popInbox_safe (h : s.safe) : s.popInbox.safe := setMe_safe h _ _ rfl (.inl rfl)

theorem cpuWrite_safe (h : s.safe) (isSB : Bool) (v : Byte) : (s.cpuWrite isSB v).safe :=
  setMe_safe h _ _ (by cases isSB <;> rfl) (.inl rfl)

theorem chooseSide_safe (h : s.safe) : s.chooseSide.safe := by
  obtain ⟨_, _, _, hchosen⟩ | ⟨_, hchosen⟩ := chooseSide_cases s <;> rw [hchosen] <;> exact h

/-! What a safe side fetches -/

theorem fetchInbox_cases (host : HostState) :
    fetchInbox host = .idle ∨ (∃ bytes, fetchInbox host = .request bytes) ∨
    (∃ isSB v, fetchInbox host = .cpuWrite isSB v) := by
  unfold fetchInbox
  split <;> simp

/-- Every source of a side's next action, with what led to it (R3, R33). -/
theorem fetch_cases (s : State) :
    (∃ bytes, s.me.host.response = some bytes ∧ fetch s = .response bytes) ∨
    (s.me.cmd = .none ∧ fetch s = fetchInbox s.me.host) ∨
    (∃ i, i.kind = .uop ∧ fetch s = .uop (uopCode i)) ∨
    fetch s = .idle := by
  cases hr : s.me.host.response with
  | some bytes => exact .inl ⟨bytes, rfl, fetch_of_response hr⟩
  | none =>
    by_cases hc : s.me.cmd = .none
    · exact .inr (.inl ⟨hc, fetch_of_no_command hr hc⟩)
    · cases hi : s.selected with
      | none => exact .inr (.inr (.inr (by simp only [fetch, hr, hc, hi, if_false])))
      | some i => exact .inr (.inr (.inl ⟨i, kind_of_select hi, fetch_of_selected hr hc hi⟩))

theorem runSide_safe (h : s.safe) : ∃ t, runSide s = .next t ∧ t.safe := by
  obtain ⟨bytes, hr, hf⟩ | ⟨hc, hf⟩ | ⟨i, hk, hf⟩ | hf := fetch_cases s
  · have ⟨_, _, _, hports⟩ := h
    obtain ⟨i, hd⟩ := hports s.turn bytes hr
    rw [runSide_response hf hd]
    exact exec_safe h i
  · obtain hi | ⟨bytes, hi⟩ | ⟨isSB, v, hi⟩ := fetchInbox_cases s.me.host <;> rw [hi] at hf
    · exact ⟨s, runSide_idle hf, h⟩
    · cases hd : decodeRequest bytes with
      | ok i =>
        rw [runSide_request hf hd]
        exact exec_safe (popInbox_safe h) i
      | error err =>
        have hnone : s.popInbox.me.cmd = .none := by simpa [State.popInbox] using hc
        exact ⟨_, runSide_request_error hf hd, setMe_safe (popInbox_safe h) .illegal _ rfl (.inr hnone)⟩
    · exact ⟨_, runSide_cpuWrite hf, cpuWrite_safe (popInbox_safe h) isSB v⟩
  · rw [runSide_uop hf (decodeUop_uopCode hk)]
    exact exec_safe h i
  · exact ⟨s, runSide_idle hf, h⟩

end

/-- Settles O58: the chosen side's action is decoded, answers, and keeps the four parts of safety. -/
theorem safeStatesStepToSafeStates : Obligations.SafeStatesStepToSafeStates := by
  intro s h
  have ⟨hlegal, _⟩ := h
  rw [step_of_legal hlegal]
  exact runSide_safe (chooseSide_safe h)

end Sys2Proof.Machine
end

section
/-! PROOFS. The stages of STEP (41_protocol.md R91 to R103): the ways STEP takes by the bytes it finds, and what each
stage makes of the store. -/

namespace Sys2Proof.Machine

/-! The bytes that W1 to W6 read (R92, R145) -/

/-- A store that is not malformed for slot `i`, condition by condition (R145). -/
theorem malformed_eq_false_iff (m : Memory) (i : Slot) :
    malformed m i = false ↔ m.alive i = 0x01 ∧ (m.alive i.peer = 0x00 ∨ m.alive i.peer = 0x01) ∧
      (m.phase i).toNat ≤ 0x04 ∧ (m.alive i.peer = 0x01 → (m.phase i.peer).toNat ≤ 0x04) := by
  simp only [malformed, Bool.or_eq_false_iff, decide_eq_false_iff_not, not_not, not_and, not_lt,
    Classical.or_iff_not_imp_left, and_assoc]

theorem malformed_eq_true_iff (m : Memory) (i : Slot) :
    malformed m i = true ↔ m.alive i ≠ 0x01 ∨ (m.alive i.peer ≠ 0x00 ∧ m.alive i.peer ≠ 0x01) ∨
      0x04 < (m.phase i).toNat ∨ (m.alive i.peer = 0x01 ∧ 0x04 < (m.phase i.peer).toNat) := by
  simp only [malformed, Bool.or_eq_true, decide_eq_true_eq, or_assoc]

/-- A byte up to 0x04 is one of the five phases (R26). -/
theorem phase_values : ∀ p : Byte, p.toNat ≤ 0x04 →
    p = Phase.disconnected ∨ p = Phase.ready ∨ p = Phase.pending ∨ p = Phase.transferring ∨ p = Phase.complete := by
  decide

/-! The ways of STEP, by the two slots' phases (R91 to R103) -/

section
variable {m : Memory} {i : Slot} (hok : malformed m i = false) (ha : m.alive i.peer = 0x01)
variable (T : Half) (e : Word) (d c : Byte)
include hok ha

/-- W5b (R97): both slots are TRANSFERRING. -/
theorem protocolStep_transfer (hi : m.phase i = Phase.transferring) (hp : m.phase i.peer = Phase.transferring) :
    protocolStep T m i e d c = stageTransfer T m i e d c := by
  simp [protocolStep, stageRecover, hok, ha, hi, hp]

/-- W5a and W6 (R96): the peer no longer is. -/
theorem protocolStep_abandon (hi : m.phase i = Phase.transferring) (hp : m.phase i.peer ≠ Phase.transferring) :
    protocolStep T m i e d c = stageLatch (abandon m i) i d c := by
  simpa [protocolStep, stageRecover, hok, ha, hi] using fun hp' => absurd hp' hp

/-- W6 alone (R99). -/
theorem protocolStep_latch (hi : m.phase i = Phase.ready ∨ m.phase i = Phase.pending) :
    protocolStep T m i e d c = stageLatch m i d c := by
  obtain hi | hi := hi <;> simp [protocolStep, stageRecover, hok, ha, hi]

/-- W4 and W6 (R95). -/
theorem protocolStep_recover (hwf : m.wf = true) (hi : m.phase i = Phase.disconnected) :
    protocolStep T m i e d c = stageLatch (m.setPhase i Phase.ready) i d c := by
  simp [protocolStep, stageRecover, hok, ha, hi, phase_setPhase m hwf]

end

/-- What STEP answers, `r`, and the bytes that led to it (R91). -/
inductive StepWay (T : Half) (m : Memory) (i : Slot) (e : Word) (d c : Byte) (r : StepResult) : Prop where
  | malformed (hbad : malformed m i = true) (hr : r = stageMalformed m d c)
  | deliver (hok : malformed m i = false) (hi : m.phase i = Phase.complete) (hr : r = stageDeliver m i)
  | absent (hok : malformed m i = false) (hi : m.phase i ≠ Phase.complete) (ha : m.alive i.peer = 0x00)
      (hr : r = stageAbsent m i d c)
  | transfer (hok : malformed m i = false) (ha : m.alive i.peer = 0x01) (hi : m.phase i = Phase.transferring)
      (hp : m.phase i.peer = Phase.transferring) (hr : r = stageTransfer T m i e d c)
  | abandon (hok : malformed m i = false) (ha : m.alive i.peer = 0x01) (hi : m.phase i = Phase.transferring)
      (hp : m.phase i.peer ≠ Phase.transferring) (hr : r = stageLatch (abandon m i) i d c)
  | recover (hok : malformed m i = false) (ha : m.alive i.peer = 0x01) (hi : m.phase i = Phase.disconnected)
      (hr : r = stageLatch (m.setPhase i Phase.ready) i d c)
  | latch (hok : malformed m i = false) (ha : m.alive i.peer = 0x01)
      (hi : m.phase i = Phase.ready ∨ m.phase i = Phase.pending) (hr : r = stageLatch m i d c)

/-- Every STEP on a canonical store takes one of the seven ways. -/
theorem stepWay {m : Memory} (hwf : m.wf = true) (T : Half) (i : Slot) (e : Word) (d c : Byte) :
    StepWay T m i e d c (protocolStep T m i e d c) := by
  cases hok : malformed m i with
  | true => exact .malformed hok (protocolStep_malformed hok T e d c)
  | false =>
    obtain ⟨_, hpeer, hphase, _⟩ := (malformed_eq_false_iff m i).1 hok
    by_cases hc : m.phase i = Phase.complete
    · exact .deliver hok hc (protocolStep_deliver hok hc T e d c)
    obtain ha | ha := hpeer
    · exact .absent hok hc ha (protocolStep_absent hok hc ha T e d c)
    obtain hi | hi | hi | hi | hi := phase_values _ hphase
    · exact .recover hok ha hi (protocolStep_recover hok ha T e d c hwf hi)
    · exact .latch hok ha (.inl hi) (protocolStep_latch hok ha T e d c (.inl hi))
    · exact .latch hok ha (.inr hi) (protocolStep_latch hok ha T e d c (.inr hi))
    · by_cases hp : m.phase i.peer = Phase.transferring
      · exact .transfer hok ha hi hp (protocolStep_transfer hok ha T e d c hi hp)
      · exact .abandon hok ha hi hp (protocolStep_abandon hok ha T e d c hi hp)
    · exact absurd hi hc

/-! Each stage's fields and frame, in a canonical store -/

/-- W6 starts a transfer: both phases TRANSFERRING and COUNTER 0 (R101). -/
def startTransfer (m : Memory) (i : Slot) : Memory :=
  ((m.setPhase i Phase.transferring).setPhase i.peer Phase.transferring).setCounter 0

theorem stageLatch_store (m : Memory) (i : Slot) (d c : Byte) :
    (stageLatch m i d c).store =
      if starts (latch m i d c) i c then startTransfer (latch m i d c) i else latch m i d c := rfl

theorem stageTransfer_store (T : Half) (m : Memory) (i : Slot) (e : Word) (d c : Byte) :
    (stageTransfer T m i e d c).store =
      if T.toNat ≤ (advance m i e).counter.toNat then exchange (advance m i e) else advance m i e := rfl

/-- No byte of a slot's peer is one of its own four. -/
theorem peerByte_outside (i : Slot) {k : Nat} (hk : k < 4) :
    ¬ (i.base ≤ i.peer.base + k ∧ i.peer.base + k < i.base + 4) := by
  cases i <;> simp only [Slot.base, Slot.peer] <;> omega

theorem sat16_toNat (x : Nat) : (sat16 x).toNat = min x 0xFFFF := by
  simp only [sat16, BitVec.toNat_ofNat]
  omega

section
variable {m : Memory} (h : m.wf = true)
include h

/-! W3 (R94) -/

theorem read_stageAbsent (i : Slot) (d c : Byte) {a : Nat} (hc : m.phase i = Phase.transferring → a ≠ 0x0C ∧ a ≠ 0x0D) :
    (stageAbsent m i d c).store.read a = if a = i.base + 3 then Phase.disconnected else m.read a := by
  simp only [stageAbsent]
  split_ifs with ht ha ha
  · exact ha ▸ read_write_same _ _ _ (wf_setCounter m 0 h)
  · rw [read_setPhase_ne _ (wf_setCounter m 0 h) _ _ _ ha, read_setCounter_ne m h 0 a (hc ht).1 (hc ht).2]
  · exact ha ▸ read_write_same _ _ _ h
  · exact read_setPhase_ne m h _ _ _ ha

theorem counter_stageAbsent (i : Slot) (d c : Byte) :
    (stageAbsent m i d c).store.counter = if m.phase i = Phase.transferring then 0 else m.counter := by
  simp only [stageAbsent]
  split_ifs
  · rw [counter_setPhase _ (wf_setCounter m 0 h), counter_setCounter m h]
  · exact counter_setPhase m h _ _

/-! W5b (R97, R98) -/

theorem counter_advance (i : Slot) (e : Word) :
    (advance m i e).counter.toNat =
      if isMaster (m.control i) then min (m.counter.toNat + e.toNat) 0xFFFF else m.counter.toNat := by
  unfold advance
  split_ifs
  · rw [counter_setCounter m h, sat16_toNat]
  · rfl

theorem read_advance (i : Slot) (e : Word) {a : Nat} (ha : a ≠ 0x0C) (ha' : a ≠ 0x0D) :
    (advance m i e).read a = m.read a := by
  unfold advance
  split_ifs
  · exact read_setCounter_ne m h _ a ha ha'
  · rfl

/-- Both slots after the exchange: ALIVE stays, DATA crosses over, the request bits are cleared (R98). -/
theorem slotReads_exchange (j : Slot) :
    slotReads (exchange m) j (m.alive j) (m.data j.peer) (clearRequest (m.control j)) Phase.complete := by
  have w1 := wf_setData m .zero (m.data .one) h
  have w2 := wf_setData _ .one (m.data .zero) w1
  have w3 := wf_setControl _ .zero (clearRequest (m.control .zero)) w2
  have w4 := wf_setControl _ .one (clearRequest (m.control .one)) w3
  have w5 := wf_setPhase _ .zero Phase.complete w4
  have w6 := wf_setPhase _ .one Phase.complete w5
  have hdata : (exchange m).data j = m.data j.peer := by
    rw [exchange, data_setCounter _ w6, data_setPhase _ w5, data_setPhase _ w4, data_setControl _ w3,
      data_setControl _ w2, data_setData_eq _ w1, data_setData_eq _ h]
    cases j <;> rfl
  have hcontrol : (exchange m).control j = clearRequest (m.control j) := by
    rw [exchange, control_setCounter _ w6, control_setPhase _ w5, control_setPhase _ w4, control_setControl_eq _ w3,
      control_setControl_eq _ w2, control_setData _ w1, control_setData _ h]
    cases j <;> rfl
  have hphase : (exchange m).phase j = Phase.complete := by
    rw [exchange, phase_setCounter _ w6, phase_setPhase_eq _ w5, phase_setPhase_eq _ w4]
    cases j <;> rfl
  exact ⟨(writesAsStep_exchange m h).2 _ (stepLeaves_alive j), hdata, hcontrol, hphase⟩

/-- The exchange zeroes COUNTER byte by byte (R98, R47). -/
theorem counterBytes_exchange : (exchange m).read 0x0C = 0x00 ∧ (exchange m).read 0x0D = 0x00 := by
  have w := wf_setPhase _ .one Phase.complete (wf_setPhase _ .zero Phase.complete (wf_setControl _ .one
    (clearRequest (m.control .one)) (wf_setControl _ .zero (clearRequest (m.control .zero)) (wf_setData _ .one
      (m.data .zero) (wf_setData m .zero (m.data .one) h)))))
  exact ⟨read_setCounter_low _ w 0, read_setCounter_high _ w 0⟩

theorem counter_exchange : (exchange m).counter = 0 := by
  obtain ⟨hlow, hhigh⟩ := counterBytes_exchange h
  simp only [Memory.counter, counterOffset, hlow, hhigh]
  rfl

/-! W5a (R96) -/

theorem phase_abandon (i j : Slot) : (abandon m i).phase j = if j = i then Phase.ready else m.phase j := by
  rw [abandon, phase_setCounter _ (wf_setPhase m _ _ h), phase_setPhase_eq m h]

theorem alive_abandon (i j : Slot) : (abandon m i).alive j = m.alive j := by
  rw [abandon, alive_setCounter _ (wf_setPhase m _ _ h), alive_setPhase m h]

theorem control_abandon (i j : Slot) : (abandon m i).control j = m.control j := by
  rw [abandon, control_setCounter _ (wf_setPhase m _ _ h), control_setPhase m h]

theorem counter_abandon (i : Slot) : (abandon m i).counter = 0 :=
  counter_setCounter _ (wf_setPhase m _ _ h) 0

/-! W6 (R99 to R101) -/

theorem data_latch (i : Slot) (d c : Byte) : (latch m i d c).data i = d := by
  have w := wf_setData m i d h
  rw [latch, data_setPhase _ (wf_setControl _ i c w), data_setControl _ w, data_setData m h]

theorem counter_latch (i : Slot) (d c : Byte) : (latch m i d c).counter = m.counter := by
  have w := wf_setData m i d h
  rw [latch, counter_setPhase _ (wf_setControl _ i c w), counter_setControl _ w, counter_setData m h]

/-- W6 latches into the slot's own DATA, CONTROL and PHASE. -/
theorem read_latch_ne (i : Slot) (d c : Byte) {a : Nat} (ha : ∀ k, 0 < k → k < 4 → a ≠ i.base + k) :
    (latch m i d c).read a = m.read a := by
  have w := wf_setData m i d h
  rw [latch, read_setPhase_ne _ (wf_setControl _ i c w) _ _ _ (ha 3 (by decide) (by decide)),
    read_setControl_ne _ w _ _ _ (ha 2 (by decide) (by decide)),
    read_setData_ne m h _ _ _ (ha 1 (by decide) (by decide))]

theorem alive_latch (i j : Slot) (d c : Byte) : (latch m i d c).alive j = m.alive j :=
  read_latch_ne h i d c fun _ hk hk' => (stepLeaves_alive j).ne_slotByte i hk hk'

/-- The conditions of R101 in terms of the store before W6. -/
theorem starts_latch_iff (i : Slot) (d c : Byte) :
    starts (latch m i d c) i c = true ↔ requests c = true ∧ requests (m.control i.peer) = true ∧
      (m.phase i.peer = Phase.ready ∨ m.phase i.peer = Phase.pending) ∧
      ((requests c = true ∧ isMaster c = true) ∨ m.phase i.peer = Phase.pending) := by
  have hown : (latch m i d c).phase i = Phase.pending ↔ requests c = true ∧ isMaster c = true := by
    rw [phase_latch m i i d c h, if_pos rfl, ← Bool.and_eq_true]
    split_ifs with hc <;> simp [hc]
  simp only [starts, decide_eq_true_eq, hown, control_latch m i _ d c h, phase_latch m i i.peer d c h, peer_ne,
    if_false]

theorem phase_startTransfer (i j : Slot) : (startTransfer m i).phase j = Phase.transferring := by
  have w := wf_setPhase m i Phase.transferring h
  rw [startTransfer, phase_setCounter _ (wf_setPhase _ _ _ w), phase_setPhase_eq _ w, phase_setPhase_eq m h]
  obtain rfl | rfl := slot_eq_or_peer i j <;> simp

theorem counter_startTransfer (i : Slot) : (startTransfer m i).counter = 0 :=
  counter_setCounter _ (wf_setPhase _ _ _ (wf_setPhase _ _ _ h)) 0

theorem read_startTransfer_ne (i : Slot) {a : Nat} (hi : a ≠ i.base + 3) (hp : a ≠ i.peer.base + 3)
    (hc : a ≠ 0x0C ∧ a ≠ 0x0D) : (startTransfer m i).read a = m.read a := by
  have w := wf_setPhase m i Phase.transferring h
  rw [startTransfer, read_setCounter_ne _ (wf_setPhase _ _ _ w) 0 a hc.1 hc.2, read_setPhase_ne _ w _ _ _ hp,
    read_setPhase_ne m h _ _ _ hi]

/-- A start writes no slot byte but the phases. -/
theorem slotByte_startTransfer (i j : Slot) {k : Nat} (hk : k < 3) :
    (startTransfer m i).read (j.base + k) = m.read (j.base + k) :=
  have hne (l : Slot) := slotOffset_ne j l k 3 (by omega) (by decide) (.inr (by omega))
  read_startTransfer_ne h i (hne i) (hne i.peer) (slotOffset_ne_counter j k (by omega))

theorem alive_startTransfer (i j : Slot) : (startTransfer m i).alive j = m.alive j :=
  slotByte_startTransfer h i j (by decide)
theorem data_startTransfer (i j : Slot) : (startTransfer m i).data j = m.data j :=
  slotByte_startTransfer h i j (by decide)
theorem control_startTransfer (i j : Slot) : (startTransfer m i).control j = m.control j :=
  slotByte_startTransfer h i j (by decide)

end

end Sys2Proof.Machine
end

section
/-! PROOFS. STEP's results (41_protocol.md R92 to R102, R107, R108): the statements O19 to O26. -/

namespace Sys2Proof.Machine

/-! W1 to W3 (R92 to R94) -/

/-- Settles O19: W1's test is R145's, and no other way of STEP logs or answers MALFORMED_STATE. -/
theorem malformedStoreIsANoOp : Obligations.MalformedStoreIsANoOp := by
  intro T m i e d c bad
  have hbad : malformed m i = true ↔ bad := malformed_eq_true_iff m i
  refine ⟨fun h => protocolStep_malformed (hbad.2 h) T e d c, fun h => ?_⟩
  have hok : malformed m i = false := Bool.eq_false_iff.2 (mt hbad.1 h)
  have hstatus : Status.ok ≠ 0x04 ∧ Status.peerDisconnected ≠ 0x04 := by decide
  obtain ⟨h, _⟩ | ⟨_, _, hr⟩ | ⟨_, _, _, hr⟩ | ⟨_, _, _, _, _, hr⟩ | ⟨_, _, _, _, _, hr⟩ | ⟨_, _, _, _, hr⟩ :=
    protocolStep_cases T m i e d c
  · exact absurd (hok.symm.trans h) (by decide)
  · exact hr ▸ ⟨rfl, hstatus.1⟩
  · exact hr ▸ ⟨rfl, hstatus.2⟩
  · exact hr ▸ ⟨rfl, hstatus.1⟩
  · exact hr ▸ ⟨rfl, hstatus.1⟩
  · exact hr ▸ ⟨rfl, hstatus.1⟩

/-- Settles O20: W2 writes PHASE[s] alone. -/
theorem deliveryResult : Obligations.DeliveryResult := by
  intro T m i e d c hwf hok hi r
  have hr : r = stageDeliver m i := protocolStep_deliver hok hi T e d c
  rw [hr]
  exact ⟨rfl, rfl, rfl, rfl, rfl, rfl, phase_setPhase m hwf i _, fun a ha => read_setPhase_ne m hwf i _ a ha⟩

/-- Settles O21: W3 writes PHASE[s], and COUNTER where it ends a transfer. -/
theorem peerAbsentResult : Obligations.PeerAbsentResult := by
  intro T m i e d c hwf hok hi ha r
  have hr : r = stageAbsent m i d c := protocolStep_absent hok hi ha T e d c
  rw [hr]
  refine ⟨rfl, rfl, rfl, rfl, rfl, rfl, ?_, fun ht => ?_, fun a ha hc => ?_⟩
  · exact (read_stageAbsent hwf i d c fun _ => slotOffset_ne_counter i 3 (by decide)).trans (if_pos rfl)
  · rw [counter_stageAbsent hwf, if_pos ht]
  · rw [read_stageAbsent hwf i d c hc, if_neg ha]

/-! W4 and W5a (R95, R96) -/

/-- Settles O22: the store that W4 or W5a hands on is READY, so its own STEP goes straight to W6. -/
theorem recoveryAndAbandonmentFallThrough : Obligations.RecoveryAndAbandonmentFallThrough := by
  intro T m i e d c hwf hok ha
  obtain ⟨hown, _, _, hpeer⟩ := (malformed_eq_false_iff m i).1 hok
  have falls {n : Memory} (halive : ∀ j, n.alive j = m.alive j) (hi : n.phase i = Phase.ready)
      (hp : n.phase i.peer = m.phase i.peer) : protocolStep T n i e d c = stageLatch n i d c := by
    refine protocolStep_latch ((malformed_eq_false_iff n i).2 ?_) ((halive _).trans ha) T e d c (.inl hi)
    rw [halive, halive, hi, hp]
    exact ⟨hown, .inr ha, by decide, hpeer⟩
  refine ⟨fun hi => ?_, fun hi hp => ?_⟩
  · rw [protocolStep_recover hok ha T e d c hwf hi]
    exact (falls (alive_setPhase m hwf i · _) (phase_setPhase m hwf i _)
      (by rw [phase_setPhase_eq m hwf, if_neg (peer_ne i)])).symm
  · rw [protocolStep_abandon hok ha T e d c hi hp]
    exact (falls (alive_abandon hwf i) (by rw [phase_abandon hwf, if_pos rfl])
      (by rw [phase_abandon hwf, if_neg (peer_ne i)])).symm

/-! W5b (R97, R98) -/

/-- Settles O23: the master's count decides between COUNTER alone and the exchange. -/
theorem transferCountsAndExchanges : Obligations.TransferCountsAndExchanges := by
  intro T m i e d c hwf hok ha hi hp r n
  have hr : r = stageTransfer T m i e d c := protocolStep_transfer hok ha T e d c hi hp
  have hn : (advance m i e).counter.toNat = n := counter_advance hwf i e
  have hread {a : Nat} (ha : a < 0x0C ∨ 0x0E ≤ a) : (advance m i e).read a = m.read a :=
    read_advance hwf i e (by omega) (by omega)
  have w := wf_advance m i e hwf
  rw [hr, stageTransfer_store, hn]
  refine ⟨⟨rfl, rfl, rfl, rfl, rfl, rfl⟩, fun hlow => ?_, fun hhigh => ?_⟩
  · rw [if_neg (by omega)]
    exact ⟨hn, fun a h1 h2 => read_advance hwf i e h1 h2⟩
  · rw [if_pos hhigh]
    refine ⟨?_, ?_, counter_exchange w, fun a ha => ?_⟩
    · rw [← hread (a := 0x04) (by decide), ← hread (a := 0x09) (by decide), ← hread (a := 0x06) (by decide)]
      exact slotReads_exchange w .zero
    · rw [← hread (a := 0x08) (by decide), ← hread (a := 0x05) (by decide), ← hread (a := 0x0A) (by decide)]
      exact slotReads_exchange w .one
    · rw [(writesAsStep_exchange _ w).2 a (by simp only [StepLeaves]; omega), hread (by omega)]

/-! W6 (R99 to R102) -/

/-- Settles O24: W6 latches, and starts exactly where R101 says. -/
theorem latchAndStart : Obligations.LatchAndStart := by
  intro T m i e d c hwf hok ha hi r master start
  have hr : r = stageLatch m i d c := protocolStep_latch hok ha T e d c hi
  have hstart : starts (latch m i d c) i c = true ↔ start := starts_latch_iff hwf i d c
  have w := wf_latch m i d c hwf
  have hframe {a : Nat} (ha : ¬ (i.base ≤ a ∧ a < i.base + 4)) : (latch m i d c).read a = m.read a :=
    read_latch_ne hwf i d c fun k _ hk => by omega
  have hcontrol : (latch m i d c).control i = c := by rw [control_latch m i i d c hwf, if_pos rfl]
  rw [hr, stageLatch_store]
  refine ⟨⟨rfl, rfl, rfl, rfl, rfl, rfl⟩, fun hs => ?_, fun hs => ?_⟩
  · rw [if_pos (hstart.2 hs)]
    refine ⟨⟨?_, ?_, ?_, phase_startTransfer w i i⟩, phase_startTransfer w i _, counter_startTransfer w i,
      fun a hown hp h1 h2 => ?_⟩
    · exact (alive_startTransfer w i i).trans (alive_latch hwf i i d c)
    · exact (data_startTransfer w i i).trans (data_latch hwf i d c)
    · exact (control_startTransfer w i i).trans hcontrol
    · rw [read_startTransfer_ne w i (by omega) hp ⟨h1, h2⟩, hframe hown]
  · rw [if_neg (mt hstart.1 hs)]
    have hphase := phase_latch m i i d c hwf
    rw [if_pos rfl] at hphase
    have hmaster : (requests c && isMaster c) = true ↔ master := Bool.and_eq_true_iff
    refine ⟨fun hm => ?_, fun hm => ?_, alive_latch hwf i i d c, data_latch hwf i d c, hcontrol, fun a => hframe⟩
    · rw [hphase, if_pos (hmaster.2 hm)]
    · rw [hphase, if_neg (mt hmaster.1 hm)]

/-- W6 leaves its slot TRANSFERRING only where it starts a transfer, and then both latched controls request (R102). -/
theorem requests_of_stageLatch_transferring {m : Memory} (hwf : m.wf = true) {i : Slot} {d c : Byte}
    (h : (stageLatch m i d c).store.phase i = Phase.transferring) (j : Slot) :
    requests ((stageLatch m i d c).store.control j) = true := by
  rw [stageLatch_store] at h ⊢
  split at h
  next hs =>
    obtain ⟨hown, hpeer, _⟩ := (starts_latch_iff hwf i d c).1 hs
    rw [if_pos hs, control_startTransfer (wf_latch m i d c hwf), control_latch m i j d c hwf]
    split_ifs with hj
    · exact hown
    · exact (slot_eq_or_peer i j).resolve_left hj ▸ hpeer
  next =>
    rw [phase_latch m i i d c hwf, if_pos rfl] at h
    split_ifs at h <;> exact absurd h (by decide)

/-- Settles O25: of STEP's ways only W6 can leave a slot TRANSFERRING that was not. -/
theorem noStartWithoutBothRequests : Obligations.NoStartWithoutBothRequests := by
  intro T m i e d c hwf hok hi ht
  suffices hboth : ∀ j, requests ((protocolStep T m i e d c).store.control j) = true from ⟨hboth .zero, hboth .one⟩
  cases stepWay hwf T i e d c with
  | malformed hbad => exact absurd (hok.symm.trans hbad) (by decide)
  | deliver _ _ hr =>
    rw [hr] at ht
    exact absurd ((phase_setPhase m hwf i _).symm.trans ht) (by decide)
  | absent _ _ _ hr =>
    have hgone := (read_stageAbsent hwf i d c fun _ => slotOffset_ne_counter i 3 (by decide)).trans (if_pos rfl)
    rw [hr] at ht
    exact absurd (hgone.symm.trans ht) (by decide)
  | transfer _ _ hmoving | abandon _ _ hmoving => exact absurd hmoving hi
  | recover _ _ _ hr =>
    rw [hr] at ht ⊢
    exact requests_of_stageLatch_transferring (wf_setPhase m i _ hwf) ht
  | latch _ _ _ hr =>
    rw [hr] at ht ⊢
    exact requests_of_stageLatch_transferring hwf ht

/-! A COMPLETE slot (R107, R108) -/

section
variable {m : Memory} (hwf : m.wf = true) {i : Slot} (hp : m.phase i.peer = Phase.complete)
include hwf hp

/-- W6 starts nothing with a COMPLETE peer, and so writes none of the peer's bytes. -/
theorem peerByte_stageLatch (d c : Byte) {k : Nat} (hk : k < 4) :
    (stageLatch m i d c).store.read (i.peer.base + k) = m.read (i.peer.base + k) := by
  have hwaits : ¬ starts (latch m i d c) i c = true := fun hs => by
    obtain ⟨_, _, hpeer, _⟩ := (starts_latch_iff hwf i d c).1 hs
    simp [hp] at hpeer
  have hout := peerByte_outside i hk
  rw [stageLatch_store, if_neg hwaits, read_latch_ne hwf i d c fun l _ hl => by omega]

theorem peerByte_protocolStep (T : Half) (e : Word) (d c : Byte) {k : Nat} (hk : k < 4) :
    (protocolStep T m i e d c).store.read (i.peer.base + k) = m.read (i.peer.base + k) := by
  have hphase : i.peer.base + k ≠ i.base + 3 := slotOffset_ne i.peer i k 3 hk (by decide) (.inl (peer_ne i))
  have hcounter := slotOffset_ne_counter i.peer k hk
  cases stepWay hwf T i e d c with
  | malformed _ hr => rw [hr]; rfl
  | deliver _ _ hr => exact hr ▸ read_setPhase_ne m hwf i _ _ hphase
  | absent _ _ _ hr => rw [hr, read_stageAbsent hwf i d c fun _ => hcounter, if_neg hphase]
  | transfer _ _ _ hmoving => exact absurd (hp.symm.trans hmoving) (by decide)
  | abandon _ _ _ _ hr =>
    have hp' : (abandon m i).phase i.peer = Phase.complete := by rw [phase_abandon hwf, if_neg (peer_ne i), hp]
    rw [hr, peerByte_stageLatch (wf_abandon m i hwf) hp' d c hk, abandon,
      read_setCounter_ne _ (wf_setPhase m i _ hwf) _ _ hcounter.1 hcounter.2, read_setPhase_ne m hwf i _ _ hphase]
  | recover _ _ _ hr =>
    have hp' : (m.setPhase i Phase.ready).phase i.peer = Phase.complete := by
      rw [phase_setPhase_eq m hwf, if_neg (peer_ne i), hp]
    rw [hr, peerByte_stageLatch (wf_setPhase m i _ hwf) hp' d c hk, read_setPhase_ne m hwf i _ _ hphase]
  | latch _ _ _ hr => rw [hr, peerByte_stageLatch hwf hp d c hk]

end

/-- Settles O26: the other side's STEP takes no way that writes the slot, and its own STEP ends in W2. -/
theorem completeSlotWaitsForItsOwnSide : Obligations.CompleteSlotWaitsForItsOwnSide := by
  intro T m i e d c hwf hi
  refine ⟨fun a hlow hhigh => ?_, fun hok => ?_⟩
  · have hkept := peerByte_protocolStep hwf (i := i.peer) (by rwa [peer_peer]) T e d c (k := a - i.base) (by omega)
    rwa [peer_peer, Nat.add_sub_cancel' hlow] at hkept
  · rw [protocolStep_deliver hok hi T e d c]
    rfl

end Sys2Proof.Machine
end

section
/-! PROOFS. The symmetry of STEP (41_protocol.md R109): the swap of the two slots as a swap of offsets, what each write
and each stage makes of swapped stores, and the statement O27. -/

namespace Sys2Proof.Machine

/-! The swap σ of R109, byte by byte -/

/-- Where σ puts the byte at offset `a`. -/
def swapOffset (a : Nat) : Nat :=
  if 0x04 ≤ a ∧ a < 0x08 then a + 4 else if 0x08 ≤ a ∧ a < 0x0C then a - 4 else a

theorem swapOffset_slot (i : Slot) {k : Nat} (hk : k < 4) : swapOffset (i.base + k) = i.peer.base + k := by
  cases i
  · exact (if_pos (by simp only [Slot.base]; omega)).trans (by simp only [Slot.base, Slot.peer]; omega)
  · refine (if_neg ?_).trans ((if_pos ?_).trans ?_) <;> simp only [Slot.base, Slot.peer] <;> omega

theorem swapOffset_other {a : Nat} (ha : a < 0x04 ∨ 0x0C ≤ a) : swapOffset a = a := by
  rw [swapOffset, if_neg (by omega), if_neg (by omega)]

theorem swapOffset_injective {a b : Nat} : swapOffset a = swapOffset b ↔ a = b := by
  unfold swapOffset
  split_ifs <;> omega

/-- An offset is a slot's or outside both slots. -/
theorem offset_cases (a : Nat) : (a < 0x04 ∨ 0x0C ≤ a) ∨ ∃ (i : Slot) (k : Nat), k < 4 ∧ a = i.base + k := by
  by_cases hout : a < 0x04 ∨ 0x0C ≤ a
  · exact .inl hout
  by_cases hzero : a < 0x08
  · exact .inr ⟨.zero, a - 0x04, by omega, by simp only [Slot.base]; omega⟩
  · exact .inr ⟨.one, a - 0x08, by omega, by simp only [Slot.base]; omega⟩

/-- `n` is the canonical store that holds every byte of the canonical store `m` where σ puts it. -/
structure Swapped (m n : Memory) : Prop where
  wf : m.wf = true
  wf' : n.wf = true
  read : ∀ a, n.read (swapOffset a) = m.read a

theorem swapped_iff (m n : Memory) : Swapped m n ↔ m.wf = true ∧ n.wf = true ∧ swappedStores m n := by
  constructor
  · rintro ⟨hm, hn, hread⟩
    have byte (i : Slot) {k : Nat} (hk : k < 4) : n.read (i.base + k) = m.read (i.peer.base + k) := by
      rw [← hread, swapOffset_slot _ hk, peer_peer]
    exact ⟨hm, hn, hn.trans hm.symm,
      fun i => ⟨byte i (by decide), byte i (by decide), byte i (by decide), byte i (by decide)⟩,
      fun a ha => by rw [← hread, swapOffset_other ha]⟩
  · rintro ⟨hm, hn, -, hslots, hother⟩
    refine ⟨hm, hn, fun a => ?_⟩
    obtain ha | ⟨i, k, hk, rfl⟩ := offset_cases a
    · rw [swapOffset_other ha, hother a ha]
    · obtain ⟨h0, h1, h2, h3⟩ := hslots i.peer
      rw [peer_peer] at h0 h1 h2 h3
      rw [swapOffset_slot i hk]
      interval_cases k
      · exact h0
      · exact h1
      · exact h2
      · exact h3

namespace Swapped

variable {m n : Memory} (h : Swapped m n)
include h

/-! What swapped stores read -/

theorem slotByte (i : Slot) {k : Nat} (hk : k < 4) : n.read (i.peer.base + k) = m.read (i.base + k) := by
  rw [← swapOffset_slot i hk, h.read]

theorem alive (i : Slot) : n.alive i.peer = m.alive i := h.slotByte i (by decide)
theorem data (i : Slot) : n.data i.peer = m.data i := h.slotByte i (by decide)
theorem control (i : Slot) : n.control i.peer = m.control i := h.slotByte i (by decide)
theorem phase (i : Slot) : n.phase i.peer = m.phase i := h.slotByte i (by decide)

theorem counter : n.counter = m.counter := by
  simp only [Memory.counter, counterOffset, ← h.read, swapOffset_other (a := 0x0C) (by decide),
    swapOffset_other (a := 0x0D) (by decide)]

theorem malformed (i : Slot) : malformed n i.peer = malformed m i := by
  simp only [Machine.malformed, h.alive, h.phase]

/-! Writes of swapped stores -/

theorem write {a : Nat} (ha : a < storeSize) (v : Byte) : Swapped (m.write a v) (n.write (swapOffset a) v) := by
  have ha' : swapOffset a < storeSize := by
    simp only [storeSize, swapOffset] at *
    split_ifs <;> omega
  refine ⟨wf_write m a v ha h.wf, wf_write n _ v ha' h.wf', fun b => ?_⟩
  by_cases hb : b = a
  · rw [hb, read_write_same _ _ _ h.wf', read_write_same _ _ _ h.wf]
  · rw [read_write_ne _ _ _ _ (mt swapOffset_injective.1 hb) h.wf', read_write_ne _ _ _ _ hb h.wf, h.read]

theorem writeSlot (i : Slot) {k : Nat} (hk : k < 4) (v : Byte) :
    Swapped (m.write (i.base + k) v) (n.write (i.peer.base + k) v) :=
  swapOffset_slot i hk ▸ h.write (base_lt i k hk) v

theorem setData (i : Slot) (v : Byte) : Swapped (m.setData i v) (n.setData i.peer v) := h.writeSlot i (by decide) v
theorem setControl (i : Slot) (v : Byte) : Swapped (m.setControl i v) (n.setControl i.peer v) :=
  h.writeSlot i (by decide) v
theorem setPhase (i : Slot) (v : Byte) : Swapped (m.setPhase i v) (n.setPhase i.peer v) := h.writeSlot i (by decide) v
theorem setCounter (v : Half) : Swapped (m.setCounter v) (n.setCounter v) :=
  (h.write (a := 0x0C) (by decide) _).write (a := 0x0D) (by decide) _

/-! Stages of swapped stores (R94 to R101) -/

theorem abandon (i : Slot) : Swapped (abandon m i) (abandon n i.peer) := (h.setPhase i _).setCounter 0

theorem advance (i : Slot) (e : Word) : Swapped (advance m i e) (advance n i.peer e) := by
  unfold Machine.advance
  rw [h.control, h.counter]
  split
  · exact h.setCounter _
  · exact h

/-- The exchange writes slot 0 before slot 1 in either store, so it is compared by what it leaves (R98). -/
theorem exchange : Swapped (exchange m) (exchange n) := by
  obtain ⟨w, hkept⟩ := writesAsStep_exchange m h.wf
  obtain ⟨w', hkept'⟩ := writesAsStep_exchange n h.wf'
  have hsame {a : Nat} (ha : a < 0x04 ∨ 0x0C ≤ a) : n.read a = m.read a := by rw [← h.read, swapOffset_other ha]
  refine (swapped_iff _ _).2 ⟨w, w', w'.trans w.symm, fun i => ?_, fun a ha => ?_⟩
  · obtain ⟨halive, hdata, hcontrol, hphase⟩ := slotReads_exchange h.wf i.peer
    have hslot := slotReads_exchange h.wf' i.peer.peer
    rw [h.alive, h.data, h.control, ← halive, ← hdata, ← hcontrol, ← hphase, peer_peer] at hslot
    exact hslot
  · obtain ⟨hlow, hhigh⟩ := counterBytes_exchange h.wf
    obtain ⟨hlow', hhigh'⟩ := counterBytes_exchange h.wf'
    by_cases hc : a = 0x0C
    · rw [hc, hlow, hlow']
    by_cases hd : a = 0x0D
    · rw [hd, hhigh, hhigh']
    have hleft : StepLeaves a := by simp only [StepLeaves]; omega
    rw [hkept a hleft, hkept' a hleft, hsame ha]

theorem latch (i : Slot) (d c : Byte) : Swapped (latch m i d c) (latch n i.peer d c) :=
  ((h.setData i d).setControl i c).setPhase i _

theorem startTransfer (i : Slot) : Swapped (startTransfer m i) (startTransfer n i.peer) :=
  ((h.setPhase i _).setPhase i.peer _).setCounter 0

theorem starts (i : Slot) (c : Byte) : starts n i.peer c = starts m i c := by
  simp only [Machine.starts, h.control, h.phase]

end Swapped

/-! STEP on swapped stores -/

/-- The same outputs, and swapped stores again. -/
structure SwappedResults (r q : StepResult) : Prop where
  store : Swapped r.store q.store
  nd : q.nd = r.nd
  nc : q.nc = r.nc
  irq : q.irq = r.irq
  status : q.status = r.status
  discOut : q.discOut = r.discOut
  log : q.log = r.log

section
variable {m n : Memory} (h : Swapped m n) (i : Slot) (d c : Byte)
include h

theorem swappedResults_stageAbsent : SwappedResults (stageAbsent m i d c) (stageAbsent n i.peer d c) := by
  refine ⟨?_, rfl, rfl, rfl, rfl, rfl, rfl⟩
  simp only [stageAbsent, h.phase]
  split
  · exact (h.setCounter 0).setPhase i _
  · exact h.setPhase i _

theorem swappedResults_stageTransfer (T : Half) (e : Word) :
    SwappedResults (stageTransfer T m i e d c) (stageTransfer T n i.peer e d c) := by
  refine ⟨?_, rfl, rfl, rfl, rfl, rfl, rfl⟩
  have hadvanced := h.advance i e
  rw [stageTransfer_store, stageTransfer_store, hadvanced.counter]
  split
  · exact hadvanced.exchange
  · exact hadvanced

theorem swappedResults_stageLatch : SwappedResults (stageLatch m i d c) (stageLatch n i.peer d c) := by
  refine ⟨?_, rfl, rfl, rfl, rfl, rfl, rfl⟩
  have hlatched := h.latch i d c
  rw [stageLatch_store, stageLatch_store, hlatched.starts]
  split
  · exact hlatched.startTransfer i
  · exact hlatched

/-- The swapped store's STEP takes the same way (R109). -/
theorem swappedResults_protocolStep (T : Half) (e : Word) :
    SwappedResults (protocolStep T m i e d c) (protocolStep T n i.peer e d c) := by
  have ok (hok : malformed m i = false) : malformed n i.peer = false := (h.malformed i).trans hok
  have own : n.phase i.peer = m.phase i := h.phase i
  have peer : n.phase i.peer.peer = m.phase i.peer := h.phase i.peer
  have alive {v : Byte} (ha : m.alive i.peer = v) : n.alive i.peer.peer = v := (h.alive i.peer).trans ha
  cases stepWay h.wf T i e d c with
  | malformed hbad hr =>
    rw [hr, protocolStep_malformed ((h.malformed i).trans hbad)]
    exact ⟨h, rfl, rfl, rfl, rfl, rfl, rfl⟩
  | deliver hok hi hr =>
    rw [hr, protocolStep_deliver (ok hok) (own.trans hi)]
    exact ⟨h.setPhase i _, h.data i, h.control i, rfl, rfl, rfl, rfl⟩
  | absent hok hi ha hr =>
    rw [hr, protocolStep_absent (ok hok) (own ▸ hi) (alive ha)]
    exact swappedResults_stageAbsent h i d c
  | transfer hok ha hi hp hr =>
    rw [hr, protocolStep_transfer (ok hok) (alive ha) T e d c (own.trans hi) (peer.trans hp)]
    exact swappedResults_stageTransfer h i d c T e
  | abandon hok ha hi hp hr =>
    rw [hr, protocolStep_abandon (ok hok) (alive ha) T e d c (own.trans hi) (peer ▸ hp)]
    exact swappedResults_stageLatch (h.abandon i) i d c
  | recover hok ha hi hr =>
    rw [hr, protocolStep_recover (ok hok) (alive ha) T e d c h.wf' (own.trans hi)]
    exact swappedResults_stageLatch (h.setPhase i _) i d c
  | latch hok ha hi hr =>
    rw [hr, protocolStep_latch (ok hok) (alive ha) T e d c (own ▸ hi)]
    exact swappedResults_stageLatch h i d c

end

/-- Settles O27: the outputs agree, and the stores are each other's swap again. -/
theorem stepIsSymmetricInTheSlots : Obligations.StepIsSymmetricInTheSlots := by
  intro T m n i e d c hm hn hswap
  obtain ⟨hstore, hnd, hnc, hirq, hstatus, hdisc, hlog⟩ :=
    swappedResults_protocolStep ((swapped_iff m n).2 ⟨hm, hn, hswap⟩) i d c T e
  obtain ⟨_, _, hswapped⟩ := (swapped_iff _ _).1 hstore
  exact ⟨hswapped, hnd, hnc, hirq, hstatus, hdisc, hlog⟩

end Sys2Proof.Machine
end

section
/-! PROOFS. The invariants of the store (41_protocol.md R104 to R106): what STEP and the transports' edits make of them,
and the statement O57. -/

namespace Sys2Proof.Machine

/-! R104 to R106, slot by slot -/

/-- R105, R106 and the cleared request of a COMPLETE slot, of slot `i`. -/
structure SlotOk (m : Memory) (i : Slot) : Prop where
  free : m.alive i = 0x00 → m.phase i = Phase.disconnected
  ready : m.phase i = Phase.ready → ¬ (requests (m.control i) = true ∧ isMaster (m.control i) = true)
  complete : m.phase i = Phase.complete → requests (m.control i) = false

theorem storeInvariant_iff (m : Memory) : storeInvariant m ↔ counterOnlyInTransfer m ∧ ∀ i, SlotOk m i :=
  ⟨fun ⟨hcounter, hfree, hready, hcomplete⟩ => ⟨hcounter, fun i => ⟨hfree i, hready i, hcomplete i⟩⟩,
    fun ⟨hcounter, hslots⟩ => ⟨hcounter, fun i => (hslots i).free, fun i => (hslots i).ready,
      fun i => (hslots i).complete⟩⟩

theorem counterOnlyInTransfer_of_zero {m : Memory} (h : m.counter = 0) : counterOnlyInTransfer m := fun hne =>
  absurd h hne

/-- R104 read backwards: outside a transfer COUNTER is 0. -/
theorem counter_eq_zero {m : Memory} (h : counterOnlyInTransfer m) {i : Slot} (hi : m.phase i ≠ Phase.transferring) :
    m.counter = 0 := by
  by_contra hne
  obtain ⟨hzero, hone⟩ := h hne
  cases i
  · exact hi hzero
  · exact hi hone

/-- COUNTER once slot `i` has left a transfer it was in. -/
theorem counter_left {m : Memory} (h : counterOnlyInTransfer m) (i : Slot) :
    (if m.phase i = Phase.transferring then 0 else m.counter) = 0 := by
  split_ifs with ht
  · rfl
  · exact counter_eq_zero h ht

section
variable {m n : Memory} {i : Slot}

theorem SlotOk.congr (h : SlotOk m i) (halive : n.alive i = m.alive i) (hcontrol : n.control i = m.control i)
    (hphase : n.phase i = m.phase i) : SlotOk n i :=
  ⟨by rw [halive, hphase]; exact h.free, by rw [hcontrol, hphase]; exact h.ready,
    by rw [hcontrol, hphase]; exact h.complete⟩

theorem SlotOk.sameBytes (h : SlotOk m i) (hread : ∀ k, k < 4 → n.read (i.base + k) = m.read (i.base + k)) :
    SlotOk n i :=
  h.congr (hread 0 (by decide)) (hread 2 (by decide)) (hread 3 (by decide))

theorem slotOk_of_disconnected (hi : m.phase i = Phase.disconnected) : SlotOk m i :=
  ⟨fun _ => hi, fun hr => absurd (hi.symm.trans hr) (by decide), fun hc => absurd (hi.symm.trans hc) (by decide)⟩

/-- Of an occupied slot R104 to R106 ask something only while it is READY or COMPLETE. -/
theorem slotOk_of_underway (ha : m.alive i ≠ 0x00) (hr : m.phase i ≠ Phase.ready) (hc : m.phase i ≠ Phase.complete) :
    SlotOk m i :=
  ⟨fun h => absurd h ha, fun h => absurd h hr, fun h => absurd h hc⟩

theorem slotOk_of_complete (ha : m.alive i ≠ 0x00) (hi : m.phase i = Phase.complete)
    (hc : requests (m.control i) = false) : SlotOk m i :=
  ⟨fun h => absurd h ha, fun hr => absurd (hi.symm.trans hr) (by decide), fun _ => hc⟩

theorem slotOk_of_ready (ha : m.alive i ≠ 0x00) (hi : m.phase i = Phase.ready)
    (hc : ¬ (requests (m.control i) = true ∧ isMaster (m.control i) = true)) : SlotOk m i :=
  ⟨fun h => absurd h ha, fun _ => hc, fun hc => absurd (hi.symm.trans hc) (by decide)⟩

/-- The two slots of an edited store: the one the edit is about, and its peer. -/
theorem storeInvariant_of_slots (hcounter : m.counter = 0) (hown : SlotOk m i) (hpeer : SlotOk m i.peer) :
    storeInvariant m := by
  refine (storeInvariant_iff m).2 ⟨counterOnlyInTransfer_of_zero hcounter, fun j => ?_⟩
  obtain rfl | rfl := slot_eq_or_peer i j
  · exact hown
  · exact hpeer

theorem storeInvariant_of_disconnected (hcounter : m.counter = 0) (hphase : ∀ i, m.phase i = Phase.disconnected) :
    storeInvariant m :=
  storeInvariant_of_slots hcounter (slotOk_of_disconnected (hphase .zero)) (slotOk_of_disconnected (hphase .one))

end

/-- `c & 0x7F` requests nothing (R98). -/
theorem requests_clearRequest (c : Byte) : requests (clearRequest c) = false := by
  simp [requests, clearRequest]

section
variable {m : Memory} {i : Slot} (hwf : m.wf = true)
include hwf

/-! W6 from any store with COUNTER 0 whose peer slot is in order (R99 to R101) -/

/-- What W6 has latched into the stepped slot is in order: READY only where the control does not ask as a master. -/
theorem slotOk_latch (ha : m.alive i ≠ 0x00) (d c : Byte) : SlotOk (latch m i d c) i := by
  have ha' : (latch m i d c).alive i ≠ 0x00 := by rwa [alive_latch hwf]
  have hphase := phase_latch m i i d c hwf
  rw [if_pos rfl] at hphase
  split_ifs at hphase with hc
  · exact slotOk_of_underway ha' (by rw [hphase]; decide) (by rw [hphase]; decide)
  · refine slotOk_of_ready ha' hphase ?_
    rwa [control_latch m i i d c hwf, if_pos rfl, ← Bool.and_eq_true]

theorem storeInvariant_startTransfer (ha : ∀ j, m.alive j ≠ 0x00) : storeInvariant (startTransfer m i) :=
  have moving (j : Slot) : SlotOk (startTransfer m i) j :=
    have hphase := phase_startTransfer hwf i j
    slotOk_of_underway (by rw [alive_startTransfer hwf]; exact ha j) (by rw [hphase]; decide) (by rw [hphase]; decide)
  storeInvariant_of_slots (counter_startTransfer hwf i) (moving i) (moving i.peer)

theorem storeInvariant_stageLatch (ha : m.alive i ≠ 0x00) (hp : m.alive i.peer ≠ 0x00) (hcounter : m.counter = 0)
    (hpeer : SlotOk m i.peer) (d c : Byte) : storeInvariant (stageLatch m i d c).store := by
  have halive (j : Slot) : (latch m i d c).alive j ≠ 0x00 := by
    rw [alive_latch hwf]
    obtain rfl | rfl := slot_eq_or_peer i j
    · exact ha
    · exact hp
  rw [stageLatch_store]
  split
  · exact storeInvariant_startTransfer (wf_latch m i d c hwf) halive
  · refine storeInvariant_of_slots ((counter_latch hwf i d c).trans hcounter) (slotOk_latch hwf ha d c)
      (hpeer.congr (alive_latch hwf i _ d c) ?_ ?_)
    · rw [control_latch m i i.peer d c hwf, if_neg (peer_ne i)]
    · rw [phase_latch m i i.peer d c hwf, if_neg (peer_ne i)]

/-! The other stages (R93, R94, R97, R98) -/

theorem storeInvariant_stageDeliver (h : storeInvariant m) (ha : m.alive i ≠ 0x00) (hi : m.phase i = Phase.complete) :
    storeInvariant (stageDeliver m i).store := by
  obtain ⟨hcounter, hslots⟩ := (storeInvariant_iff m).1 h
  show storeInvariant (m.setPhase i Phase.ready)
  refine storeInvariant_of_slots (i := i) ?_ (slotOk_of_ready ?_ (phase_setPhase m hwf i _) ?_)
    ((hslots i.peer).congr (alive_setPhase m hwf i _ _) (control_setPhase m hwf i _ _) ?_)
  · rw [counter_setPhase m hwf]
    exact counter_eq_zero hcounter (i := i) (by rw [hi]; decide)
  · rwa [alive_setPhase m hwf]
  · simp [control_setPhase m hwf, (hslots i).complete hi]
  · rw [phase_setPhase_eq m hwf, if_neg (peer_ne i)]

theorem storeInvariant_stageAbsent (h : storeInvariant m) (d c : Byte) :
    storeInvariant (stageAbsent m i d c).store := by
  obtain ⟨hcounter, hslots⟩ := (storeInvariant_iff m).1 h
  have hread (j : Slot) (k : Nat) (hk : k < 4) := read_stageAbsent hwf i d c fun _ => slotOffset_ne_counter j k hk
  refine storeInvariant_of_slots (i := i) ?_ (slotOk_of_disconnected ?_) ((hslots i.peer).sameBytes fun k hk => ?_)
  · rw [counter_stageAbsent hwf, counter_left hcounter]
  · exact (hread i 3 (by decide)).trans (if_pos rfl)
  · rw [hread _ k hk, if_neg (slotOffset_ne i.peer i k 3 hk (by decide) (.inl (peer_ne i)))]

/-- W5b keeps both phases while it counts, and leaves both slots COMPLETE when it exchanges. -/
theorem storeInvariant_stageTransfer (h : storeInvariant m) (ha : ∀ j, m.alive j ≠ 0x00)
    (hphase : ∀ j, m.phase j = Phase.transferring) (T : Half) (e : Word) (d c : Byte) :
    storeInvariant (stageTransfer T m i e d c).store := by
  obtain ⟨_, hslots⟩ := (storeInvariant_iff m).1 h
  have hkept (j : Slot) {k : Nat} (hk : k < 4) : (advance m i e).read (j.base + k) = m.read (j.base + k) :=
    have hne := slotOffset_ne_counter j k hk
    read_advance hwf i e hne.1 hne.2
  have hphase' (j : Slot) : (advance m i e).phase j = Phase.transferring := (hkept j (by decide)).trans (hphase j)
  rw [stageTransfer_store]
  split
  · have complete (j : Slot) : SlotOk (exchange (advance m i e)) j := by
      obtain ⟨halive, _, hcontrol, hcomplete⟩ := slotReads_exchange (wf_advance m i e hwf) j
      refine slotOk_of_complete ?_ hcomplete ((congrArg requests hcontrol).trans (requests_clearRequest _))
      exact fun h0 => ha j ((hkept j (by decide)).symm.trans (halive.symm.trans h0))
    exact storeInvariant_of_slots (counter_exchange (wf_advance m i e hwf)) (complete i) (complete i.peer)
  · exact (storeInvariant_iff _).2
      ⟨fun _ => ⟨hphase' .zero, hphase' .one⟩, fun j => (hslots j).sameBytes fun _ => hkept j⟩

/-- STEP keeps R104 to R106, whichever way it takes (R91 to R103). -/
theorem storeInvariant_protocolStep (h : storeInvariant m) (T : Half) (e : Word) (d c : Byte) :
    storeInvariant (protocolStep T m i e d c).store := by
  obtain ⟨hcounter, hslots⟩ := (storeInvariant_iff m).1 h
  have own (hok : malformed m i = false) : m.alive i ≠ 0x00 := by
    obtain ⟨ha, _⟩ := (malformed_eq_false_iff m i).1 hok
    simp [ha]
  have peer (ha : m.alive i.peer = 0x01) : m.alive i.peer ≠ 0x00 := by simp [ha]
  have idle {p : Byte} (hi : m.phase i = p) (hp : p ≠ Phase.transferring) : m.counter = 0 :=
    counter_eq_zero hcounter (hi ▸ hp)
  cases stepWay hwf T i e d c with
  | malformed _ hr => exact hr ▸ h
  | deliver hok hi hr => exact hr ▸ storeInvariant_stageDeliver hwf h (own hok) hi
  | absent _ _ _ hr => exact hr ▸ storeInvariant_stageAbsent hwf h d c
  | transfer hok ha hi hp hr =>
    refine hr ▸ storeInvariant_stageTransfer hwf h (fun j => ?_) (fun j => ?_) T e d c <;>
      obtain rfl | rfl := slot_eq_or_peer i j
    · exact own hok
    · exact peer ha
    · exact hi
    · exact hp
  | abandon hok ha _ _ hr =>
    refine hr ▸ storeInvariant_stageLatch (wf_abandon m i hwf) ?_ ?_ (counter_abandon hwf i)
      ((hslots i.peer).congr (alive_abandon hwf i _) (control_abandon hwf i _) ?_) d c
    · rw [alive_abandon hwf]; exact own hok
    · rw [alive_abandon hwf]; exact peer ha
    · rw [phase_abandon hwf, if_neg (peer_ne i)]
  | recover hok ha hi hr =>
    refine hr ▸ storeInvariant_stageLatch (wf_setPhase m i _ hwf) ?_ ?_
      ((counter_setPhase m hwf i _).trans (idle hi (by decide)))
      ((hslots i.peer).congr (alive_setPhase m hwf i _ _) (control_setPhase m hwf i _ _) ?_) d c
    · rw [alive_setPhase m hwf]; exact own hok
    · rw [alive_setPhase m hwf]; exact peer ha
    · rw [phase_setPhase_eq m hwf, if_neg (peer_ne i)]
  | latch hok ha hi hr =>
    have hzero : m.counter = 0 := hi.elim (idle · (by decide)) (idle · (by decide))
    exact hr ▸ storeInvariant_stageLatch hwf (own hok) (peer ha) hzero (hslots i.peer) d c

/-! The transports' edits of the store (R83, R84, R86, R88, R126) -/

theorem storeInvariant_setInit (h : storeInvariant m) (v : Byte) : storeInvariant (m.setInit v) := by
  obtain ⟨hcounter, hslots⟩ := (storeInvariant_iff m).1 h
  refine (storeInvariant_iff _).2 ⟨?_, fun j => ?_⟩
  · simpa only [counterOnlyInTransfer, counter_setInit m hwf, phase_setInit m hwf] using hcounter
  · exact (hslots j).congr (alive_setInit m hwf j v) (control_setInit m hwf j v) (phase_setInit m hwf j v)

/-- R105 asks nothing of an occupied slot, and R104 and R106 do not read ALIVE. -/
theorem storeInvariant_setAlive (h : storeInvariant m) (i : Slot) {v : Byte} (hv : v ≠ 0x00) :
    storeInvariant (m.setAlive i v) := by
  obtain ⟨hcounter, hslots⟩ := (storeInvariant_iff m).1 h
  refine (storeInvariant_iff _).2 ⟨?_, fun j => ⟨?_, ?_, ?_⟩⟩ <;>
    simp only [counterOnlyInTransfer, counter_setAlive m hwf, phase_setAlive m hwf, control_setAlive m hwf]
  · exact hcounter
  · rw [alive_setAlive_eq m hwf]
    split_ifs with hj
    · exact fun h0 => absurd h0 hv
    · exact (hslots j).free
  · exact (hslots j).ready
  · exact (hslots j).complete

/-- INIT_REGION zeroes COUNTER and both phases (R83). -/
theorem storeInvariant_fillProtected : storeInvariant (m.fill protectedOffset 0x00 12) := by
  have hzero {a : Nat} (ha : protectedOffset ≤ a ∧ a < protectedOffset + 12) :
      (m.fill protectedOffset 0x00 12).read a = 0x00 := by
    rw [read_fill m _ _ _ _ (by decide) hwf, if_pos ha]
  refine storeInvariant_of_disconnected ?_ fun j => hzero (by cases j <;> decide)
  rw [Memory.counter, hzero (by decide), hzero (by decide)]
  rfl

theorem counter_claim (i : Slot) : (claim m i).counter = m.counter := by
  have w1 := wf_setAlive m i 0x01 hwf
  have w2 := wf_setData _ i 0x00 w1
  rw [claim, counter_setPhase _ (wf_setControl _ i 0x00 w2), counter_setControl _ w2, counter_setData _ w1,
    counter_setAlive m hwf]

/-- A free slot is claimed as DISCONNECTED, as it was (R86, R105). -/
theorem storeInvariant_claim (h : storeInvariant m) (hfree : m.alive i = 0x00) : storeInvariant (claim m i) := by
  obtain ⟨hcounter, hslots⟩ := (storeInvariant_iff m).1 h
  obtain ⟨_, _, _, hphase⟩ := slotReads_claim hwf i
  refine storeInvariant_of_slots (i := i) ?_ (slotOk_of_disconnected hphase) ((hslots i.peer).sameBytes fun k hk => ?_)
  · rw [counter_claim hwf]
    exact counter_eq_zero hcounter (i := i) (by rw [(hslots i).free hfree]; decide)
  · have hout := peerByte_outside i hk
    rw [read_claim m i hwf, if_neg (by omega), if_neg (by omega)]

theorem storeInvariant_leaveSlot (h : storeInvariant m) (i : Slot) : storeInvariant (leaveSlot m i) := by
  obtain ⟨hcounter, hslots⟩ := (storeInvariant_iff m).1 h
  have hread (j : Slot) (k : Nat) (hk : k < 4) :=
    read_leaveSlot m i hwf (j.base + k) fun _ => slotOffset_ne_counter j k hk
  refine storeInvariant_of_slots (i := i) ?_ (slotOk_of_disconnected ?_) ((hslots i.peer).sameBytes fun k hk => ?_)
  · rw [counter_leaveSlot m i hwf, counter_left hcounter]
  · exact (hread i 3 (by decide)).trans (if_pos (.inr rfl))
  · have hout := peerByte_outside i hk
    rw [hread _ k hk, if_neg (by omega)]

end

/-! Every step (R104 to R106) -/

/-- What R104 to R106 ask of the store in every run, with the canonical form that the bytes' laws need. -/
def storeOk (s : State) : Prop := s.store.wf = true ∧ storeInvariant s.store

section
variable {s : State}

theorem storeOk.ownMove {t : State} (h : storeOk s) (hm : OwnMove s t) : storeOk t := by
  rwa [storeOk, hm.store]

theorem storeOk_of_no_bytes (h : s.store = []) : storeOk s := by
  rw [storeOk, h]
  exact ⟨wf_nil, storeInvariant_nil⟩

theorem storeOk_setMe {l : SideState} (h : storeOk s) : storeOk (s.setMe l) := by
  rwa [storeOk, setMe_store]

theorem storeOk_respond {f : Instr} (h : storeOk s) : storeOk (s.respond f) := storeOk_setMe h

theorem storeOk_createOrOpen (h : storeOk s) (fail : Bool) : storeOk (createOrOpen s fail) := by
  unfold createOrOpen
  split_ifs
  · exact storeOk_respond h
  · exact storeOk_setMe h
  · exact storeOk_setMe (storeOk_of_no_bytes rfl)

theorem storeOk_initRegion (h : storeOk s) : storeOk (initRegion s) :=
  have hfill := wf_fill s.store protectedOffset 0x00 12 (by decide) h.1
  storeOk_setMe ⟨wf_setAlive _ _ _ hfill,
    storeInvariant_setAlive hfill (storeInvariant_fillProtected h.1) .zero (by decide)⟩

theorem storeOk_publish (h : storeOk s) : storeOk (publish s) :=
  storeOk_respond (storeOk_setMe ⟨wf_setInit _ _ h.1, storeInvariant_setInit h.1 h.2 _⟩)

theorem storeOk_claim (h : storeOk s) {i : Slot} (hfree : s.store.alive i = 0x00) :
    storeOk { s with store := claim s.store i } :=
  ⟨wf_claim _ i h.1, storeInvariant_claim h.1 h.2 hfree⟩

theorem storeOk_claimSlot (h : storeOk s) : storeOk (claimSlot s) := by
  cases hmine : s.storeIsMine with
  | false => exact claimSlot_of_not_mine hmine ▸ h.ownMove (OwnMove.refl s).attachFails
  | true =>
    cases hfree : freeSlot s.store with
    | none => exact claimSlot_of_full hfree ▸ h.ownMove (OwnMove.refl s).attachFails
    | some i =>
      rw [claimSlot_of_free hmine hfree]
      obtain ⟨hi, _⟩ := (freeSlot_eq_some_iff _ i).1 hfree
      exact storeOk_setMe (storeOk_claim h hi)

theorem storeOk_leaveSlot (h : storeOk s) (i : Slot) : storeOk { s with store := leaveSlot s.store i } :=
  ⟨wf_leaveSlot _ i h.1, storeInvariant_leaveSlot h.1 h.2 i⟩

theorem storeOk_detachFrom (h : storeOk s) (i : Slot) : storeOk (detachFrom s i) := by
  by_cases hpeer : s.store.alive i.peer = 0x00
  · rw [detachFrom_of_peer_gone h.1 hpeer]
    exact storeOk_setMe (storeOk_of_no_bytes rfl)
  · rw [detachFrom_of_peer_present h.1 hpeer]
    exact storeOk_setMe (storeOk_leaveSlot h i)

theorem storeOk_protocolStep (h : storeOk s) (T : Half) (i : Slot) (e : Word) (d c : Byte) :
    storeOk { s with store := (protocolStep T s.store i e d c).store } :=
  ⟨(writesAsStep_protocolStep T s.store i e d c h.1).1, storeInvariant_protocolStep h.1 h.2 T e d c⟩

theorem storeOk_ownStep (h : storeOk s) (i : Slot) (e : Word) (d c : Byte) : storeOk (s.ownStep i e d c) :=
  storeOk_respond (storeOk_setMe (storeOk_protocolStep h _ i e d c))

theorem storeOk_pOpen (h : storeOk s) (fail : Bool) : storeOk (pOpen s fail) := by
  unfold pOpen
  split
  · exact storeOk_respond (storeOk_setMe h)
  · have hinit : storeInvariant (Memory.setInit [] 0x01) := storeInvariant_setInit wf_nil storeInvariant_nil 0x01
    exact storeOk_respond (storeOk_setMe ⟨wf_setAlive _ _ _ (wf_setInit _ _ wf_nil),
      storeInvariant_setAlive (wf_setInit _ _ wf_nil) hinit .zero (by decide)⟩)

/-- SERVICE edits the parent's store as CLAIM_SLOT, DETACH_EXEC and COMMIT do (R126). -/
theorem storeOk_serviceFrame (h : storeOk s) (f : ChildFrame) : storeOk (serviceFrame s f) := by
  cases f with
  | attach =>
    simp only [serviceFrame, serviceAttach]
    split
    · exact storeOk_claim h ‹_›
    · exact h
  | update e d c =>
    simp only [serviceFrame, serviceUpdate]
    split
    · exact storeOk_setMe (storeOk_protocolStep h _ .one e d c)
    · exact h
  | detach => exact storeOk_leaveSlot h .one
  | junk => exact storeOk_setMe h

theorem storeOk_service (h : storeOk s) : storeOk (service s) := by
  obtain ⟨_, _, hs⟩ | ⟨_, _, _, hs⟩ | ⟨_, _, _, _, hs⟩ | ⟨f, rest, _, _, hs⟩ := service_cases s <;> rw [hs]
  · exact h
  · exact storeOk_leaveSlot h .one
  · exact h
  · exact storeOk_serviceFrame (s := s.popC2P rest) h f

/-- Every meaning leaves the store alone, empties it, or edits it as one of the lemmas above. -/
theorem storeOk_of_exec {i : Instr} {t : State} (h : storeOk s) (he : exec i s = .next t) : storeOk t := by
  suffices hends : EndsIn storeOk (exec i s) from hends t he
  have guarded {r : Result} (hr : EndsIn storeOk r) : EndsIn storeOk (whenEnabled s i r) :=
    endsIn_whenEnabled h fun _ => hr
  have own {u : State} (hu : OwnMove s u) : EndsIn storeOk (.next u) := endsIn_next (h.ownMove hu)
  have start := OwnMove.refl s
  have drawn : storeOk s.afterDraw := h.ownMove start.afterDraw
  cases i with
  | attach | detach | query | update => exact guarded (own (start.setMe id))
  | attachRsp | detachRsp | queryRsp | errorRsp => exact own (start.receive _)
  | updateRsp => exact own ((start.receive _).setMe id)
  | createOrOpen => exact guarded (endsIn_next (storeOk_createOrOpen drawn _))
  | initRegion => exact guarded (endsIn_needStore (storeOk_initRegion h))
  | publish => exact guarded (endsIn_needStore (storeOk_publish h))
  | pollInit => exact guarded (own (ownMove_pollInit s))
  | claimSlot => exact guarded (endsIn_next (storeOk_claimSlot h))
  | detachExec => exact guarded (endsIn_atOwnSlot (storeOk_detachFrom h))
  | lockAcquire => exact guarded (endsIn_onUpdate h fun _ d c => own (ownMove_tryLock s d c))
  | commit =>
    exact guarded (endsIn_onUpdate h fun e d c => endsIn_atOwnSlot fun k =>
      storeOk_ownStep (s := { s with lockOwner := none }) h k e d c)
  | unlinkedExec => exact guarded (own (ownMove_unlinkedAnswer s))
  | queryExec => exact guarded (own (start.respond rfl))
  | pOpen => exact guarded (endsIn_next (storeOk_pOpen drawn _))
  | pUpdate =>
    exact guarded (endsIn_onUpdate h fun e d c => endsIn_needStore (storeOk_ownStep (storeOk_service h) .zero e d c))
  | pClose => exact guarded (endsIn_next (storeOk_respond (storeOk_setMe (storeOk_of_no_bytes rfl))))
  | cSendAttach => exact fun u hu => h.ownMove (ownMove_execCSendAttach s u hu)
  | cRecvAttach => exact guarded (own (ownMove_cRecv s))
  | cUpdate =>
    exact guarded (endsIn_onUpdate h fun _ d c => own ((ownMove_cAccumulate s _).trans (ownMove_cUpdate _ d c)))
  | cClose => exact guarded (own (ownMove_cClose s))
  | trivialExec => exact guarded (own (ownMove_trivialAnswer s))
  | illegalExec => exact guarded (own (start.answer _ rfl))

end

/-- What every write of the acting side's own fields and every meaning keep, a side's action keeps. -/
theorem runSide_keeps {P : State → Prop} (hown : ∀ s l, P s → P (s.setMe l))
    (hexec : ∀ i s t, P s → exec i s = .next t → P t) {s t : State} (h : P s) (hrun : runSide s = .next t) : P t := by
  have popped : P s.popInbox := hown s _ h
  cases hf : fetch s with
  | idle =>
    cases (runSide_idle hf).symm.trans hrun
    exact h
  | response bytes =>
    cases hd : decodeResponse bytes with
    | ok i => exact hexec i s t h ((runSide_response hf hd).symm.trans hrun)
    | error err => exact nomatch (runSide_response_error hf hd).symm.trans hrun
  | request bytes =>
    cases hd : decodeRequest bytes with
    | ok i => exact hexec i _ t popped ((runSide_request hf hd).symm.trans hrun)
    | error err =>
      cases (runSide_request_error hf hd).symm.trans hrun
      exact hown _ _ popped
  | cpuWrite isSB v =>
    cases (runSide_cpuWrite hf).symm.trans hrun
    exact hown _ _ popped
  | uop code =>
    cases hd : decodeUop code with
    | some i => exact hexec i s t h ((runSide_uop hf hd).symm.trans hrun)
    | none => exact nomatch (runSide_uop_none hf hd).symm.trans hrun

/-- What the choice of a side keeps besides, a step keeps. -/
theorem step_keeps {P : State → Prop} (hchoose : ∀ s, P s → P s.chooseSide) (hown : ∀ s l, P s → P (s.setMe l))
    (hexec : ∀ i s t, P s → exec i s = .next t → P t) {s t : State} (h : P s) (hstep : step s = .next t) : P t := by
  cases hl : s.cfg.legalModePair with
  | true => exact runSide_keeps hown hexec (hchoose s h) ((step_of_legal hl).symm.trans hstep)
  | false => exact nomatch (step_of_not_legal hl).symm.trans hstep

/-- Settles O57: every edit of the store keeps R104 to R106, STEP's by its ways (R91 to R103). -/
theorem stepKeepsTheStoreInvariants : Obligations.StepKeepsTheStoreInvariants := by
  intro s t ⟨hwf, _⟩ hinv hstep
  have ht : storeOk t := step_keeps (P := storeOk) (fun u hu => by rwa [storeOk, chooseSide_store])
    (fun _ _ => storeOk_setMe) (fun _ _ _ => storeOk_of_exec) ⟨hwf, hinv⟩ hstep
  exact ht.2

end Sys2Proof.Machine
end

section
/-! PROOFS. The port adapter and the arbitrated UPDATE (42_port_adapter.md R110 to R117): the statements O28 and O30 to
O35. -/

namespace Sys2Proof.Machine

/-! The serial interrupt (R113, R149) -/

/-- W2 is the only stage that hands the host another's values: the others give its own back, with irq 0 (R92 to R101). -/
theorem hostValues_of_no_delivery {m : Memory} {i : Slot} (h : ¬ (malformed m i = false ∧ m.phase i = Phase.complete))
    (T : Half) (e : Word) (d c : Byte) :
    (protocolStep T m i e d c).irq = false ∧ (protocolStep T m i e d c).nd = d ∧ (protocolStep T m i e d c).nc = c := by
  obtain ⟨_, hr⟩ | ⟨hok, hi, _⟩ | ⟨_, _, _, hr⟩ | ⟨_, _, _, _, _, hr⟩ | ⟨_, _, _, _, _, hr⟩ | ⟨_, _, _, _, hr⟩ :=
    protocolStep_cases T m i e d c
  · exact hr ▸ ⟨rfl, rfl, rfl⟩
  · exact absurd ⟨hok, hi⟩ h
  · exact hr ▸ ⟨rfl, rfl, rfl⟩
  · exact hr ▸ ⟨rfl, rfl, rfl⟩
  · exact hr ▸ ⟨rfl, rfl, rfl⟩
  · exact hr ▸ ⟨rfl, rfl, rfl⟩

/-- Settles O28: STEP either delivers (W2) or hands the host's values back. -/
theorem interruptExactlyAtDelivery : Obligations.InterruptExactlyAtDelivery := by
  intro T m i e d c r
  by_cases h : malformed m i = false ∧ m.phase i = Phase.complete
  · have hirq : r.irq = true := congrArg StepResult.irq (protocolStep_deliver h.1 h.2 T e d c)
    exact ⟨iff_of_true hirq h, fun hno => absurd (hirq.symm.trans hno) (by decide)⟩
  · obtain ⟨hirq, hvalues⟩ := hostValues_of_no_delivery h T e d c
    exact ⟨iff_of_false (Bool.eq_false_iff.1 hirq) h, fun _ => hvalues⟩

/-! LOCK_ACQUIRE (R110) -/

section
variable {s : State} {e : Word} {d c : Byte}

theorem onUpdate_of_update (h : s.me.cmd = .update e d c) (k : Word → Byte → Byte → Result) :
    onUpdate s k = k e d c := by
  simp only [onUpdate, h]

theorem isUpdate_of_update (h : s.me.cmd = .update e d c) : s.me.cmd.isUpdate = true := by
  rw [h, Cmd.isUpdate]

end

/-- An UPDATE that runs no STEP: its answer has the flags byte `disc << 1` (R76). -/
theorem localOnly_passThrough (s : State) (d c status : Byte) :
    localOnly s (s.passThrough d c status) (s.me.ended [0x90, d, c, if s.me.disc then 0x02 else 0x00, status]) := by
  have hflags : flagsByte false s.me.disc = if s.me.disc then 0x02 else 0x00 := by cases s.me.disc <;> rfl
  exact hflags ▸ localOnly_respond s (.updateRsp d c false s.me.disc status)

theorem lockAcquire_of_granted {s : State} {granted : Bool} (h : s.lockOwner = none ∧ granted = true) (d c : Byte) :
    lockAcquire s granted d c = { s with lockOwner := some s.turn } := if_pos h

theorem lockAcquire_of_not_granted {s : State} {granted : Bool} (h : ¬ (s.lockOwner = none ∧ granted = true))
    (d c : Byte) : lockAcquire s granted d c = s.passThrough d c Status.lockTimeout := if_neg h

/-- Settles O30: with and without a draw (R56), the try is granted on a free lock, or the UPDATE ends. -/
theorem lockAcquireResult : Obligations.LockAcquireResult := by
  intro s e d c hmode hcmd hseq hlock u granted
  have hon : enabled s .lockAcquire = true := decide_eq_true ⟨hmode, isUpdate_of_update hcmd, hseq, hlock⟩
  have hnext : exec .lockAcquire s = .next (tryLock s d c) :=
    (whenEnabled_of_enabled hon _).trans (onUpdate_of_update hcmd _)
  refine ⟨_, hnext, ?_⟩
  cases hspurious : s.cfg.lockMayFailSpuriously with
  | true =>
    have hu : u = s.afterDraw := if_pos hspurious
    have hgranted : granted ↔ s.drawn = true := by simp [granted, hspurious]
    rw [hu, hgranted, tryLock, if_pos hspurious, ← afterDraw_lockOwner s]
    refine ⟨fun hfree hdrawn => ?_, fun hno => ?_⟩
    · rw [lockAcquire_of_granted ⟨hfree, hdrawn⟩, afterDraw_turn]
    · rw [lockAcquire_of_not_granted hno, ← afterDraw_me s]
      exact localOnly_passThrough s.afterDraw d c _
  | false =>
    have hu : u = s := if_neg (Bool.eq_false_iff.1 hspurious)
    have hgranted : granted ↔ true = true := by simp [granted, hspurious]
    rw [hu, hgranted, tryLock, if_neg (Bool.eq_false_iff.1 hspurious)]
    refine ⟨fun hfree htrue => lockAcquire_of_granted ⟨hfree, htrue⟩ d c, fun hno => ?_⟩
    rw [lockAcquire_of_not_granted hno]
    exact localOnly_passThrough s d c _

/-! COMMIT (R111) -/

/-- The side's own fields after its STEP, field by field (R112, R39). -/
theorem afterStep_eq (l : SideState) (r : StepResult) :
    l.afterStep r = { l with
      disc := r.discOut.getD l.disc
      logCount := if r.log then sat32 (l.logCount.toNat + 1) else l.logCount } := by
  cases hlog : r.log <;> simp [SideState.afterStep, SideState.logEvent, hlog]

/-- STEP's store, and one change of the acting side (R111, R127). -/
theorem ownStep_eq (s : State) (i : Slot) (e : Word) (d c : Byte) :
    let r := protocolStep s.cfg.transferThreshold s.store i e d c
    let l := s.me.afterStep r
    s.ownStep i e d c =
      ({ s with store := r.store }).setMe (l.ended (encode (.updateRsp r.nd r.nc r.irq l.disc r.status))) :=
  setMe_respond _ _ _

/-- Settles O31: the side's STEP from the state in which the lock is released. -/
theorem commitResult : Obligations.CommitResult := by
  intro s i e d c hmode hcmd hlock hexists hslot r disc
  have hon : enabled s .commit = true := decide_eq_true ⟨hmode, isUpdate_of_update hcmd, hlock⟩
  have hnext : exec .commit s = .next (commitUpdate s i e d c) :=
    (whenEnabled_of_enabled hon _).trans
      ((onUpdate_of_update hcmd _).trans ((atOwnSlot_eq_next _ _ _).2 ⟨hexists, i, hslot, rfl⟩))
  have hdisc : r.discOut.getD s.me.disc = disc := by cases hd : r.discOut <;> simp only [disc, hd, Option.getD]
  refine ⟨_, hnext, ?_⟩
  rw [commitUpdate, ownStep_eq]
  refine ⟨sameElsewhere_setMe (sameElsewhere_withStore _ _) _, setMe_store _ _, (setMe_me _ _).trans ?_⟩
  rw [← hdisc, afterStep_eq]
  rfl

/-! UNLINKED_EXEC (R114) -/

section
variable {s : State}

theorem unlinkedAnswer_of_update {e : Word} {d c : Byte} (h : s.me.cmd = .update e d c) :
    unlinkedAnswer s = s.respond (.updateRsp d c false true Status.ok) := by
  simp only [unlinkedAnswer, h]

theorem unlinkedAnswer_of_attach (h : s.me.cmd = .attach) :
    unlinkedAnswer s = s.respond (.attachRsp Status.ok 0xFF) := by
  simp only [unlinkedAnswer, h]

theorem unlinkedAnswer_of_detach (h : s.me.cmd = .detach) : unlinkedAnswer s = s.respond (.detachRsp Status.ok) := by
  simp only [unlinkedAnswer, h]

theorem exec_unlinkedExec (hm : s.mode = .unlinked)
    (hc : s.me.cmd = .attach ∨ s.me.cmd = .detach ∨ s.me.cmd.isUpdate = true) :
    exec .unlinkedExec s = .next (unlinkedAnswer s) :=
  whenEnabled_of_enabled (i := .unlinkedExec) (decide_eq_true ⟨hm, hc⟩) _

end

/-- Settles O32: one answer per command (R114). -/
theorem unlinkedExecResult : Obligations.UnlinkedExecResult := by
  intro s hmode
  refine ⟨fun e d c hcmd => ?_, fun hcmd => ?_, fun hcmd => ?_⟩
  · refine ⟨_, exec_unlinkedExec hmode (.inr (.inr (isUpdate_of_update hcmd))), ?_⟩
    rw [unlinkedAnswer_of_update hcmd]
    exact localOnly_respond s _
  · refine ⟨_, exec_unlinkedExec hmode (.inl hcmd), ?_⟩
    rw [unlinkedAnswer_of_attach hcmd]
    exact localOnly_respond s _
  · refine ⟨_, exec_unlinkedExec hmode (.inr (.inl hcmd)), ?_⟩
    rw [unlinkedAnswer_of_detach hcmd]
    exact localOnly_respond s _

/-! QUERY_EXEC (R115) -/

/-- Settles O33: QUERY_EXEC is enabled by its command alone. -/
theorem queryExecResult : Obligations.QueryExecResult := fun s hcmd =>
  ⟨_, whenEnabled_of_enabled (i := .queryExec) (decide_eq_true hcmd) _, localOnly_respond s (.queryRsp s.me.disc)⟩

/-! TRIVIAL_EXEC (R116) -/

/-- A linked side that is DETACHED, or CLOSED in a PIPE mode, has nothing to step or leave (R78). -/
theorem trivialPair_of_idle {mode : Mode} {cmd : Cmd} {seq : Seq} (hm : mode ≠ .unlinked)
    (hc : cmd = .detach ∨ cmd.isUpdate = true) (hq : seq = .detached ∨ (seq = .closed ∧ mode ≠ .shm)) :
    trivialPair mode cmd seq = true := by
  have hcmd : cmd = .detach ∨ ∃ e d c, cmd = .update e d c := hc.imp_right exists_update_of_isUpdate
  obtain rfl | ⟨rfl, hshm⟩ := hq
  · cases mode with
    | unlinked => exact absurd rfl hm
    | shm | pipeParent | pipeChild => obtain rfl | ⟨e, d, c, rfl⟩ := hcmd <;> rfl
  · cases mode with
    | unlinked => exact absurd rfl hm
    | shm => exact absurd rfl hshm
    | pipeParent | pipeChild => obtain rfl | ⟨e, d, c, rfl⟩ := hcmd <;> rfl

/-- A second ATTACH has nothing to do, nor one on a closed stream (R78). -/
theorem trivialPair_attach {mode : Mode} {seq : Seq} (hm : mode ≠ .unlinked)
    (hq : seq = .attached ∨ (seq = .closed ∧ mode ≠ .shm)) : trivialPair mode .attach seq = true := by
  obtain rfl | ⟨rfl, hshm⟩ := hq
  · cases mode with
    | unlinked => exact absurd rfl hm
    | shm | pipeParent | pipeChild => rfl
  · cases mode with
    | unlinked => exact absurd rfl hm
    | shm => exact absurd rfl hshm
    | pipeParent | pipeChild => rfl

section
variable {s : State}

theorem trivialAnswer_of_update {e : Word} {d c : Byte} (h : s.me.cmd = .update e d c) :
    trivialAnswer s = s.passThrough d c Status.notAttached := by
  simp only [trivialAnswer, h]

theorem trivialAnswer_of_detach (h : s.me.cmd = .detach) : trivialAnswer s = s.respond (.detachRsp Status.ok) := by
  simp only [trivialAnswer, h]

theorem trivialAnswer_of_attach (h : s.me.cmd = .attach) :
    trivialAnswer s = if s.me.seq = .attached then s.respond (.attachRsp Status.ok s.me.slot)
      else s.respond (.attachRsp Status.transportUnavailable 0xFF) := by
  simp only [trivialAnswer, h]

theorem exec_trivialExec (h : trivialPair s.mode s.me.cmd s.me.seq = true) :
    exec .trivialExec s = .next (trivialAnswer s) :=
  whenEnabled_of_enabled (i := .trivialExec) h _

end

/-- Settles O34: the pairs of R116 are pairs that TRIVIAL_EXEC is enabled for, and each has its answer. -/
theorem trivialExecResult : Obligations.TrivialExecResult := by
  intro s hmode idleSeq
  refine ⟨fun e d c hcmd hidle => ?_, fun hcmd hidle => ?_, fun hcmd hseq => ?_, fun hcmd hseq hpipe => ?_⟩
  · refine ⟨_, exec_trivialExec (trivialPair_of_idle hmode (.inr (isUpdate_of_update hcmd)) hidle), ?_⟩
    rw [trivialAnswer_of_update hcmd]
    exact localOnly_passThrough s d c _
  · refine ⟨_, exec_trivialExec (trivialPair_of_idle hmode (.inl hcmd) hidle), ?_⟩
    rw [trivialAnswer_of_detach hcmd]
    exact localOnly_respond s _
  · refine ⟨_, exec_trivialExec (hcmd ▸ trivialPair_attach hmode (.inl hseq)), ?_⟩
    rw [trivialAnswer_of_attach hcmd, if_pos hseq]
    exact localOnly_respond s _
  · refine ⟨_, exec_trivialExec (hcmd ▸ trivialPair_attach hmode (.inr ⟨hseq, hpipe⟩)), ?_⟩
    rw [trivialAnswer_of_attach hcmd, if_neg (by simp [hseq])]
    exact localOnly_respond s _

/-! ILLEGAL_EXEC (R117) -/

/-- Settles O35: the count and the answer are one change of the acting side. -/
theorem illegalExecResult : Obligations.IllegalExecResult := by
  intro s hcmd
  refine ⟨_, whenEnabled_of_enabled (i := .illegalExec) (decide_eq_true hcmd) _, ?_⟩
  rw [setMe_respond]
  exact localOnly_setMe s _

end Sys2Proof.Machine
end

section
/-! PROOFS. The byte FIFOs (43_fifo_transport.md R122, R123): pushes, the frames at the heads of C2P and P2C, the order
of a push and a change of the acting side, and the statement O48. -/

namespace Sys2Proof.Machine

/-! Pushes (R122) -/

theorem push_of_room {q : Fifo} {depth : Nat} {f : List Byte} (hopen : q.closed = false)
    (hroom : q.bytes.length + f.length ≤ depth) : q.push depth f = ⟨q.bytes ++ f, false⟩ := by
  obtain ⟨hno | hno, _⟩ | ⟨_, _, h⟩ := push_cases q depth f
  · simp [hopen] at hno
  · simp only [Fifo.room] at hno
    omega
  · rw [h, hopen]

theorem push_of_no_room {q : Fifo} {depth : Nat} {f : List Byte} (hno : q.closed = true ∨ q.room depth < f.length) :
    q.push depth f = q := if_pos hno

/-- Settles O48: `push_cases`' two outcomes, with the room counted in bytes. -/
theorem pushIsWholeOrNothing : Obligations.PushIsWholeOrNothing := by
  intro q depth f hq
  refine ⟨push_of_room, ?_, (push_length q depth f).trans (max_le hq le_rfl)⟩
  rintro (hclosed | ⟨_, hlen⟩)
  · exact push_of_no_room (.inl hclosed)
  · have hroom : depth - q.bytes.length < f.length := by omega
    exact push_of_no_room (.inr hroom)

/-! The frame at the head of C2P (R123) -/

theorem headC2P_attach (rest : List Byte) : headC2P (0x01 :: rest) = some (.attach, rest) := rfl

theorem headC2P_detach (rest : List Byte) : headC2P (0x04 :: rest) = some (.detach, rest) := rfl

theorem headC2P_update (e : Word) (d c : Byte) (rest : List Byte) :
    headC2P (encode (.update e d c) ++ rest) = some (.update e d c, rest) := by
  have hhead : headC2P (encode (.update e d c) ++ rest) =
      some (.update (leWord (wordByte e 0) (wordByte e 1) (wordByte e 2) (wordByte e 3)) d c, rest) := rfl
  rw [hhead, leWord_wordByte]

theorem headC2P_update_of_length {q : List Byte} (h : 6 ≤ q.length) :
    ∃ e d c rest, headC2P (0x10 :: q) = some (.update e d c, rest) := by
  match q, h with
  | _ :: _ :: _ :: _ :: d :: c :: rest, _ => exact ⟨_, d, c, rest, rfl⟩

theorem headC2P_junk {b : Byte} (h1 : b ≠ 0x01) (h4 : b ≠ 0x04) (h10 : b ≠ 0x10) (rest : List Byte) :
    headC2P (b :: rest) = some (.junk, rest) :=
  (if_neg h1).trans ((if_neg h4).trans (if_neg h10))

/-! The frame at the head of P2C (R123) -/

theorem headP2C_attachRsp (st slot : Byte) (rest : List Byte) :
    headP2C ([0x81, st, slot] ++ rest) = some (.attachRsp st slot, rest) := rfl

theorem headP2C_updateRsp (nd nc fl st : Byte) (rest : List Byte) :
    headP2C ([0x90, nd, nc, fl, st] ++ rest) = some (.updateRsp nd nc fl st, rest) := rfl

theorem headP2C_errorRsp (st : Byte) (rest : List Byte) :
    headP2C ([0xFF, st] ++ rest) = some (.errorRsp st, rest) := rfl

theorem headP2C_junk {b : Byte} (h81 : b ≠ 0x81) (h90 : b ≠ 0x90) (hFF : b ≠ 0xFF) (rest : List Byte) :
    headP2C ([b] ++ rest) = some (.junk, rest) :=
  (if_neg h81).trans ((if_neg h90).trans (if_neg hFF))

/-! A change of the FIFOs and one of the acting side do not interfere -/

section
variable (s : State)

theorem setSide_withC2P (X : Side) (l : SideState) (q : Fifo) :
    { s.setSide X l with c2p := q } = State.setSide { s with c2p := q } X l := by cases X <;> rfl

theorem setSide_withP2C (X : Side) (l : SideState) (q : Fifo) :
    { s.setSide X l with p2c := q } = State.setSide { s with p2c := q } X l := by cases X <;> rfl

variable (l : SideState)

theorem setMe_withC2P (q : Fifo) : { s.setMe l with c2p := q } = State.setMe { s with c2p := q } l :=
  setSide_withC2P s s.turn l q

theorem setMe_withP2C (q : Fifo) : { s.setMe l with p2c := q } = State.setMe { s with p2c := q } l :=
  setSide_withP2C s s.turn l q

theorem setMe_pushC2P (f : Instr) : (s.setMe l).pushC2P f = (s.pushC2P f).setMe l := by
  rw [State.pushC2P, setMe_withC2P, setMe_c2p, setMe_cfg]
  rfl

theorem setMe_pushP2C (f : Instr) : (s.setMe l).pushP2C f = (s.pushP2C f).setMe l := by
  rw [State.pushP2C, setMe_withP2C, setMe_p2c, setMe_cfg]
  rfl

theorem setMe_popP2C (rest : List Byte) : (s.setMe l).popP2C rest = (s.popP2C rest).setMe l := by
  rw [State.popP2C, setMe_withP2C, setMe_p2c]
  rfl

theorem setMe_closeC2P : (s.setMe l).closeC2P = s.closeC2P.setMe l := by
  rw [State.closeC2P, setMe_withC2P, setMe_c2p]
  rfl

end

end Sys2Proof.Machine
end

section
/-! PROOFS. The piped transport's parent (43_fifo_transport.md R121, R125 to R128): SERVICE by the frame at the head of
C2P, P_OPEN, P_UPDATE and P_CLOSE, and the statements O37 to O42. -/

namespace Sys2Proof.Machine

/-! When SERVICE answers a frame (R126) -/

section
variable {s : State} {f : ChildFrame} {rest : List Byte}

theorem service_of_frame (h : headC2P s.c2p.bytes = some (f, rest))
    (hroom : serviceNeed f ≤ s.cfg.fifoDepth - s.p2c.bytes.length) :
    service s = serviceFrame (s.popC2P rest) f := by
  unfold service
  rw [h]
  exact if_neg (Nat.not_lt.2 hroom)

theorem service_of_no_room (h : headC2P s.c2p.bytes = some (f, rest))
    (hroom : s.cfg.fifoDepth - s.p2c.bytes.length < serviceNeed f) : service s = s := by
  unfold service
  rw [h]
  exact if_pos hroom

theorem service_of_no_frame (h : s.c2p.bytes = []) (hgo : ¬ (s.c2p.closed = true ∧ s.store.alive .one = 0x01)) :
    service s = s := by
  unfold service
  rw [h]
  exact if_neg hgo

theorem service_of_end (h : s.c2p.bytes = []) (hgo : s.c2p.closed = true ∧ s.store.alive .one = 0x01) :
    service s = { s with store := leaveSlot s.store .one } := by
  unfold service
  rw [h]
  exact if_pos hgo

end

/-- A left slot 1, byte by byte: COUNTER goes with a TRANSFERRING slot only (R126). -/
theorem leftSlotOne {m : Memory} (h : m.wf = true) :
    (leaveSlot m .one).alive .one = 0x00 ∧ (leaveSlot m .one).phase .one = 0x00 ∧
    (m.phase .one = 0x03 → (leaveSlot m .one).counter = 0) ∧
    ∀ a, a ≠ 0x08 → a ≠ 0x0B → (m.phase .one = 0x03 → a ≠ 0x0C ∧ a ≠ 0x0D) →
      (leaveSlot m .one).read a = m.read a := by
  refine ⟨?_, ?_, fun ht => ?_, fun a h8 hB hc => ?_⟩
  · exact (read_leaveSlot m .one h _ fun _ => slotOffset_ne_counter .one 0 (by decide)).trans (if_pos (.inl rfl))
  · exact (read_leaveSlot m .one h _ fun _ => slotOffset_ne_counter .one 3 (by decide)).trans (if_pos (.inr rfl))
  · exact (counter_leaveSlot m .one h).trans (if_pos ht)
  · exact (read_leaveSlot m .one h a hc).trans (if_neg (not_or.2 ⟨h8, hB⟩))

/-- Settles O38: the end of the stream leaves slot 1, and a frame that needs more room than P2C has stays. -/
theorem serviceWithoutAFrameOrRoom : Obligations.ServiceWithoutAFrameOrRoom := by
  refine ⟨fun s hempty hwf => ⟨service_of_no_frame hempty, fun hclosed halive => ?_⟩, ?_⟩
  · rw [service_of_end hempty ⟨hclosed, halive⟩]
    exact ⟨sameElsewhere_withStore s _, rfl, leftSlotOne hwf⟩
  · intro s op rest hhead room
    refine ⟨?_, ?_, fun h1 h4 h10 => service_of_no_room (by rw [hhead, headC2P_junk h1 h4 h10])⟩
    · rintro rfl
      exact service_of_no_room (by rw [hhead, headC2P_attach])
    · rintro rfl hlen
      obtain ⟨e, d, c, rest', hupdate⟩ := headC2P_update_of_length hlen
      exact service_of_no_room (by rw [hhead, hupdate])

/-! What SERVICE answers (R126) -/

section
variable (s : State)

theorem serviceAttach_of_free (h : s.store.alive .one = 0x00) :
    serviceAttach s = ({ s with store := claim s.store .one }).pushP2C (.attachRsp Status.ok Slot.one.code) := if_pos h

theorem serviceAttach_of_taken (h : s.store.alive .one ≠ 0x00) :
    serviceAttach s = s.pushP2C (.attachRsp Status.transportUnavailable 0xFF) := if_neg h

/-- The parent's own fields change in L.LOG_COUNT alone, with a logged event (R126). -/
theorem serviceUpdate_of_alive (e : Word) (d c : Byte) (h : s.store.alive .one = 0x01) :
    let r := protocolStep s.cfg.transferThreshold s.store .one e d c
    serviceUpdate s e d c =
      (({ s with store := r.store }).pushP2C
        (.updateRsp r.nd r.nc r.irq (decide (r.discOut = some true)) r.status)).setMe
        { s.me with logCount := if r.log then sat32 (s.me.logCount.toNat + 1) else s.me.logCount } := by
  intro r
  have hlog : (if r.log then s.me.logEvent else s.me) =
      { s.me with logCount := if r.log then sat32 (s.me.logCount.toNat + 1) else s.me.logCount } := by
    cases r.log <;> rfl
  rw [← hlog, ← setMe_pushP2C]
  exact if_pos h

theorem serviceUpdate_of_not_alive (e : Word) (d c : Byte) (h : s.store.alive .one ≠ 0x01) :
    serviceUpdate s e d c = s.pushP2C (.updateRsp d c false true Status.notAttached) := if_neg h

theorem serviceFrame_junk :
    serviceFrame s .junk = (s.pushP2C (.errorRsp Status.illegalCommand)).setMe s.me.logEvent :=
  setMe_pushP2C s _ _

end

/-- Settles O39: one frame each of R126, popped, with the answer it pushes. -/
theorem serviceAttachDetachJunk : Obligations.ServiceAttachDetachJunk := by
  intro s op rest hhead hwf room popped pushed
  refine ⟨?_, ?_, fun h1 h4 h10 hroom => ?_⟩
  · rintro rfl hroom
    have hrun : service s = serviceAttach popped :=
      service_of_frame (s := s) (f := .attach) (by rw [hhead, headC2P_attach]) hroom
    rw [hrun]
    refine ⟨serviceAttach_of_taken popped, fun hfree => ?_⟩
    rw [serviceAttach_of_free popped hfree]
    refine ⟨sameElsewhere_withStore (pushed [0x81, 0x00, 0x01]) _, rfl, slotReads_claim hwf .one, fun a ha => ?_⟩
    refine (read_claim s.store .one hwf a).trans ?_
    rw [if_neg (by simp only [Slot.base]; omega), if_neg (by simp only [Slot.base]; omega)]
  · rintro rfl
    have hrun : service s = { popped with store := leaveSlot s.store .one } :=
      service_of_frame (by rw [hhead, headC2P_detach]) (Nat.zero_le _)
    rw [hrun]
    exact ⟨sameElsewhere_withStore popped _, rfl, leftSlotOne hwf⟩
  · have hrun : service s = serviceFrame popped .junk :=
      service_of_frame (by rw [hhead, headC2P_junk h1 h4 h10]) hroom
    rw [hrun, serviceFrame_junk]
    exact localOnly_setMe (pushed [0xFF, 0x07]) _

/-- STEP's disc_out as bit 1 of an answer's flags (R76, R126). -/
theorem flagsByte_discOut (irq : Bool) (discOut : Option Bool) :
    flagsByte irq (decide (discOut = some true)) =
      (if irq then 0x01 else 0x00) ||| (if discOut = some true then 0x02 else 0x00) := by
  simp [flagsByte]

/-- Settles O40: the popped UPDATE runs STEP for slot 1, or none while slot 1 is free. -/
theorem serviceUpdateRunsSlotOne : Obligations.ServiceUpdateRunsSlotOne := by
  intro s e d c rest hbytes hroom r pushed
  have hhead : headC2P s.c2p.bytes = some (.update e d c, rest) := by
    rw [hbytes]
    exact headC2P_update e d c rest
  have hrun : service s = serviceUpdate (s.popC2P rest) e d c := service_of_frame hhead hroom
  rw [hrun]
  refine ⟨serviceUpdate_of_not_alive (s.popC2P rest) e d c, fun halive => ?_⟩
  rw [serviceUpdate_of_alive (s.popC2P rest) e d c halive, ← flagsByte_discOut]
  exact ⟨sameElsewhere_setMe (sameElsewhere_withStore (pushed _) _) _, setMe_store _ _, setMe_me _ _⟩

/-! P_OPEN, P_UPDATE and P_CLOSE (R125, R127, R128) -/

theorem pipeAttachFails_eq (s : State) (st : Byte) :
    s.pipeAttachFails st = s.setMe (({ s.me with seq := .closed }).ended [0x81, st, 0xFF]) := setMe_respond _ _ _

/-- The store a parent opens: INIT and ALIVE[0] 0x01, every other byte 0x00 (R125). -/
theorem read_openedStore (a : Nat) :
    ((Memory.setInit [] 0x01).setAlive .zero 0x01).read a = if a = 0x00 ∨ a = 0x04 then 0x01 else 0x00 := by
  have hinit : (Memory.setInit [] 0x01).wf = true := wf_setInit _ _ wf_nil
  by_cases h4 : a = 0x04
  · subst h4
    rfl
  · rw [read_setAlive_ne _ hinit _ _ _ h4]
    by_cases h0 : a = 0x00
    · subst h0
      rfl
    · rw [if_neg (not_or.2 ⟨h0, h4⟩)]
      exact (read_write_ne _ _ _ _ h0 wf_nil).trans rfl

theorem pOpen_of_fail (s : State) :
    pOpen s true = ({ s with p2c := ⟨s.p2c.bytes, true⟩ }).setMe
      (({ s.me with seq := .closed }).ended [0x81, 0x01, 0xFF]) := pipeAttachFails_eq s.closeP2C _

theorem pOpen_of_ok (s : State) :
    pOpen s false = ({ s with
      storeExists := true, storeGen := s.storeGen + 1, store := (Memory.setInit [] 0x01).setAlive .zero 0x01 }).setMe
        (({ s.me with slot := 0x00, creator := true, gen := s.storeGen + 1, seq := .attached }).ended
          [0x81, 0x00, 0x00]) := setMe_respond _ _ _

/-- Settles O37: the draw decides between the closed side and the opened store. -/
theorem pOpenResult : Obligations.POpenResult := by
  intro s hmode hcmd hseq
  have hon : enabled s .pOpen = true := decide_eq_true ⟨hmode, hcmd, hseq⟩
  refine ⟨_, whenEnabled_of_enabled hon _, fun hfail => ?_, fun hok => ?_⟩
  · rw [hfail, pOpen_of_fail, afterDraw_me, afterDraw_p2c]
    exact localOnly_setMe _ _
  · rw [hok, pOpen_of_ok, afterDraw_me, afterDraw_storeGen]
    have hread (a : Nat) (ha : a ≤ 0x0F) : State.readByte _ a = some (if a = 0x00 ∨ a = 0x04 then 0x01 else 0x00) :=
      (readByte_withStore (s := { s.afterDraw with storeExists := true, storeGen := s.storeGen + 1 }) rfl _
        (Nat.lt_succ_of_le ha)).trans (congrArg some (read_openedStore a))
    simp only [setMe_readByte]
    refine ⟨sameElsewhere_setMe (sameElsewhere_withStore _ _) _, setMe_me _ _, hread 0x00 (by decide),
      hread 0x04 (by decide), fun a ha h0 h4 => (hread a ha).trans ?_⟩
    rw [if_neg (not_or.2 ⟨h0, h4⟩)]

/-- Settles O42: P_CLOSE is one change of the acting side on a closed P2C and no store. -/
theorem pCloseResult : Obligations.PCloseResult := by
  intro s hmode hcmd hseq
  have hon : enabled s .pClose = true := decide_eq_true ⟨hmode, hcmd, hseq⟩
  refine ⟨_, whenEnabled_of_enabled hon _, ?_⟩
  rw [pClose, setMe_respond]
  exact ⟨sameElsewhere_setMe (sameElsewhere_withStore _ []) _, setMe_me _ _⟩

/-- An answered frame changes the parent's own fields in L.LOG_COUNT at most, and no configuration (R126). -/
theorem serviceFrame_frame (s : State) (f : ChildFrame) :
    (serviceFrame s f).cfg = s.cfg ∧
    (serviceFrame s f).me = { s.me with logCount := (serviceFrame s f).me.logCount } := by
  cases f with
  | attach =>
    simp only [serviceFrame, serviceAttach]
    split <;> exact ⟨rfl, rfl⟩
  | detach => exact ⟨rfl, rfl⟩
  | update e d c =>
    by_cases halive : s.store.alive .one = 0x01
    · rw [serviceFrame, serviceUpdate_of_alive s e d c halive]
      exact ⟨setMe_cfg _ _, by simp only [setMe_me]⟩
    · rw [serviceFrame, serviceUpdate_of_not_alive s e d c halive]
      exact ⟨rfl, rfl⟩
  | junk =>
    rw [serviceFrame_junk]
    exact ⟨setMe_cfg _ _, by simp only [setMe_me, SideState.logEvent]⟩

theorem service_frame (s : State) :
    (service s).cfg = s.cfg ∧ (service s).me = { s.me with logCount := (service s).me.logCount } := by
  obtain ⟨_, _, h⟩ | ⟨_, _, _, h⟩ | ⟨_, _, _, _, h⟩ | ⟨f, rest, _, _, h⟩ := service_cases s <;> rw [h]
  · exact ⟨rfl, rfl⟩
  · exact ⟨rfl, rfl⟩
  · exact ⟨rfl, rfl⟩
  · exact serviceFrame_frame (s.popC2P rest) f

/-- Settles O41: the parent's STEP from the state that SERVICE leaves. -/
theorem pUpdateResult : Obligations.PUpdateResult := by
  intro s e d c hmode hcmd hseq hexists u r disc
  have hon : enabled s .pUpdate = true := decide_eq_true ⟨hmode, isUpdate_of_update hcmd, hseq⟩
  have hnext : exec .pUpdate s = .next (u.ownStep .zero e d c) :=
    (whenEnabled_of_enabled hon _).trans ((onUpdate_of_update hcmd _).trans ((needStore_eq_next _ _ _).2 ⟨hexists, rfl⟩))
  obtain ⟨hcfg, hme⟩ := service_frame s
  have hstep : protocolStep u.cfg.transferThreshold u.store .zero e d c = r := by rw [hcfg]
  have hdisc : r.discOut.getD u.me.disc = disc := by
    rw [show u.me.disc = s.me.disc by rw [hme]]
    cases hd : r.discOut <;> simp only [disc, hd, Option.getD]
  refine ⟨_, hnext, ?_⟩
  rw [ownStep_eq, hstep]
  refine ⟨sameElsewhere_setMe (sameElsewhere_withStore u _) _, setMe_store _ _, (setMe_me _ _).trans ?_⟩
  rw [afterStep_eq, hdisc, hme]
  rfl

end Sys2Proof.Machine
end

section
/-! PROOFS. The piped transport's child (43_fifo_transport.md R121, R129 to R132): what each of its µ-ops makes of the
FIFOs and of the acting side, and the statements O43 to O47 and O54. -/

namespace Sys2Proof.Machine

/-! The store belongs to the parent (R121) -/

/-- In mode PIPE_CHILD the µ-ops of the other modes wait, and its own leave the store to itself. -/
theorem ownMove_of_exec_child {i : Instr} {s t : State} (hm : s.mode = .pipeChild) (he : exec i s = .next t) :
    OwnMove s t := by
  suffices hends : EndsIn (OwnMove s) (exec i s) from hends t he
  have guarded {r : Result} (hr : enabled s i = true → EndsIn (OwnMove s) r) :
      EndsIn (OwnMove s) (whenEnabled s i r) := endsIn_whenEnabled (.refl s) hr
  have own {u : State} (hu : OwnMove s u) : EndsIn (OwnMove s) (.next u) := endsIn_next hu
  have start := OwnMove.refl s
  cases i with
  | attach | detach | query | update => exact guarded fun _ => own (start.setMe id)
  | attachRsp | detachRsp | queryRsp | errorRsp => exact own (start.receive _)
  | updateRsp => exact own ((start.receive _).setMe id)
  | createOrOpen | initRegion | publish | pollInit | claimSlot | detachExec | lockAcquire | commit | unlinkedExec
  | pOpen | pUpdate | pClose =>
    exact guarded fun hon => nomatch hm.symm.trans (of_decide_eq_true hon).1
  | queryExec => exact guarded fun _ => own (start.respond rfl)
  | cSendAttach => exact ownMove_execCSendAttach s
  | cRecvAttach => exact guarded fun _ => own (ownMove_cRecv s)
  | cUpdate =>
    exact guarded fun _ => endsIn_onUpdate start fun _ d c => own ((ownMove_cAccumulate s _).trans (ownMove_cUpdate _ d c))
  | cClose => exact guarded fun _ => own (ownMove_cClose s)
  | trivialExec => exact guarded fun _ => own (ownMove_trivialAnswer s)
  | illegalExec => exact guarded fun _ => own (start.answer _ rfl)

/-- Settles O54: every action of a child leaves the store to itself. -/
theorem childNeverWritesTheStore : Obligations.ChildNeverWritesTheStore := fun _ _ _ hm he =>
  have hmove := ownMove_of_exec_child hm he
  ⟨hmove.store, hmove.storeExists, hmove.storeGen⟩

/-! C_SEND_ATTACH (R129) -/

theorem cAttachFails_eq (s : State) (st : Byte) :
    cAttachFails s st =
      ({ s with c2p := ⟨s.c2p.bytes, true⟩ }).setMe (({ s.me with seq := .closed }).ended [0x81, st, 0xFF]) :=
  pipeAttachFails_eq _ _

theorem cSend_eq (s : State) :
    cSend s = ({ s with c2p := s.c2p.push s.cfg.fifoDepth [0x01] }).setMe
      { s.me with polls := 0, seq := .joining } := rfl

/-- Settles O43: a failing draw, room for the byte, or neither. -/
theorem cSendAttachResult : Obligations.CSendAttachResult := by
  intro s hmode hcmd hseq
  refine ⟨_, if_pos ⟨hmode, hcmd, hseq⟩, fun hfail => ?_, fun hok hroom => ?_, fun hok hfull => ?_⟩
  · have hfails : cSendFails s.afterDraw = _ := cAttachFails_eq s.afterDraw _
    rw [if_pos hfail, hfails, afterDraw_me, afterDraw_c2p]
    exact localOnly_setMe _ _
  · have hon : enabled s .cSendAttach = true := decide_eq_true ⟨hmode, hcmd, hseq, .inl (Nat.sub_pos_of_lt hroom)⟩
    have hpush : s.afterDraw.c2p.push s.afterDraw.cfg.fifoDepth [0x01] = s.c2p.push s.cfg.fifoDepth [0x01] := by
      rw [afterDraw_c2p, afterDraw_cfg]
    rw [if_neg (Bool.eq_false_iff.1 hok), if_pos hon, cSend_eq, hpush, afterDraw_me]
    exact localOnly_setMe _ _
  · have hroom : ¬ 1 ≤ s.c2p.room s.cfg.fifoDepth := Nat.not_le.2 (Nat.lt_one_iff.2 (Nat.sub_eq_zero_of_le hfull))
    have hoff : ¬ enabled s .cSendAttach = true := fun hon =>
      (of_decide_eq_true hon).2.2.2.elim hroom (Bool.eq_false_iff.1 hok)
    rw [if_neg (Bool.eq_false_iff.1 hok), if_neg hoff]

/-! C_RECV_ATTACH (R130) -/

section
variable {s : State} {rest : List Byte}

theorem cPollAgain_of_more (h : s.me.polls + 1 ≠ s.cfg.initPollLimit) :
    cPollAgain s = s.setMe { s.me with polls := s.me.polls + 1 } := by
  rw [cPollAgain]
  exact if_neg (by simpa using h)

theorem cPollAgain_of_last (h : s.me.polls + 1 = s.cfg.initPollLimit) :
    cPollAgain s = cAttachFails (s.setMe { s.me with polls := s.me.polls + 1 }) Status.transportUnavailable := by
  rw [cPollAgain]
  exact if_pos (by simpa using h)

theorem cAttachFails_setMe (l : SideState) (st : Byte) :
    cAttachFails (s.setMe l) st =
      ({ s with c2p := ⟨s.c2p.bytes, true⟩ }).setMe (({ l with seq := .closed }).ended [0x81, st, 0xFF]) := by
  rw [cAttachFails_eq, setMe_withC2P, setMe_setMe, setMe_me, setMe_c2p]

theorem cRecv_of_attachRsp {st slot : Byte} (h : headP2C s.p2c.bytes = some (.attachRsp st slot, rest)) :
    cRecv s = if st = Status.ok then
        ((s.popP2C rest).setMe { s.me with slot := slot, seq := .attached }).respond (.attachRsp Status.ok slot)
      else cAttachFails (s.popP2C rest) st := by
  unfold cRecv
  rw [h]

theorem cRecv_of_other {g : ParentFrame} (h : headP2C s.p2c.bytes = some (g, rest))
    (hg : ∀ st slot, g ≠ .attachRsp st slot) : cRecv s = cPollAgain (cDiscard s rest) := by
  unfold cRecv
  rw [h]
  cases g with
  | attachRsp st slot => exact absurd rfl (hg st slot)
  | updateRsp | errorRsp | junk => rfl

theorem cRecv_of_empty (h : s.p2c.bytes = []) :
    cRecv s = if s.p2c.closed then cAttachFails s Status.transportUnavailable else cPollAgain s := by
  unfold cRecv
  rw [h]
  rfl

/-- A whole frame that is no ATTACH_RSP, as O44 lists them. -/
theorem headP2C_of_no_attachRsp {f : List Byte}
    (h : (∃ nd nc fl st, f = [0x90, nd, nc, fl, st]) ∨ (∃ st, f = [0xFF, st]) ∨
      (∃ b, f = [b] ∧ b ≠ 0x81 ∧ b ≠ 0x90 ∧ b ≠ 0xFF)) :
    ∃ g, headP2C (f ++ rest) = some (g, rest) ∧ ∀ st slot, g ≠ .attachRsp st slot := by
  obtain ⟨nd, nc, fl, st, rfl⟩ | ⟨st, rfl⟩ | ⟨b, rfl, h81, h90, hFF⟩ := h
  · exact ⟨_, headP2C_updateRsp nd nc fl st rest, nofun⟩
  · exact ⟨_, headP2C_errorRsp st rest, nofun⟩
  · exact ⟨_, headP2C_junk h81 h90 hFF rest, nofun⟩

end

/-- Settles O44: the head of P2C, EOF and the poll limit decide. -/
theorem cRecvAttachResult : Obligations.CRecvAttachResult := by
  intro s hmode hcmd hseq closedC2P
  have hon : enabled s .cRecvAttach = true := decide_eq_true ⟨hmode, hcmd, hseq⟩
  refine ⟨_, whenEnabled_of_enabled hon _, fun slot rest hbytes => ?_, fun st slot rest hst hbytes => ?_,
    fun hempty hclosed => ?_, fun hempty hopen hmore => ?_, fun hempty hopen hlast => ?_, ?_⟩
  · rw [cRecv_of_attachRsp (by rw [hbytes, headP2C_attachRsp]), if_pos rfl, setMe_respond]
    exact localOnly_setMe _ _
  · rw [cRecv_of_attachRsp (by rw [hbytes, headP2C_attachRsp]), if_neg hst, cAttachFails_eq]
    exact localOnly_setMe _ _
  · rw [cRecv_of_empty hempty, if_pos hclosed, cAttachFails_eq]
    exact localOnly_setMe _ _
  · rw [cRecv_of_empty hempty, if_neg (Bool.eq_false_iff.1 hopen), cPollAgain_of_more hmore]
    exact localOnly_setMe _ _
  · rw [cRecv_of_empty hempty, if_neg (Bool.eq_false_iff.1 hopen), cPollAgain_of_last hlast, cAttachFails_setMe]
    exact localOnly_setMe _ _
  · intro f rest hbytes hf counted
    obtain ⟨g, hhead, hg⟩ := headP2C_of_no_attachRsp (rest := rest) hf
    have hpolled : (cDiscard s rest).setMe
        { (cDiscard s rest).me with polls := (cDiscard s rest).me.polls + 1 } = (s.popP2C rest).setMe counted := by
      rw [cDiscard, setMe_setMe, setMe_me]
      rfl
    have hpolls : (cDiscard s rest).me.polls = s.me.polls := by
      rw [cDiscard, setMe_me]
      rfl
    have hlimit : (cDiscard s rest).cfg.initPollLimit = s.cfg.initPollLimit := by
      rw [cDiscard, setMe_cfg]
      rfl
    rw [cRecv_of_other (by rw [hbytes, hhead]) hg, ← hpolls, ← hlimit]
    refine ⟨fun hmore => ?_, fun hlast => ?_⟩
    · rw [cPollAgain_of_more hmore, hpolled]
      exact localOnly_setMe _ _
    · rw [cPollAgain_of_last hlast, hpolled, cAttachFails_setMe]
      exact localOnly_setMe _ _

/-! C_UPDATE (R131) -/

section
variable (s : State) (l : SideState) (d c : Byte)

/-- The end of a call that asks for the next STEP: the acting side changes once, and C2P takes the request. -/
theorem cAnswer_of_idle (h : l.outstanding = false) (result : Option Byte) :
    cAnswer (s.setMe l) d c result = (s.pushC2P (.update l.acc d c)).setMe
      (({ l with acc := 0, outstanding := true }).ended
        [0x90, d, c, flagsByte false l.disc, result.getD Status.notYetAvailable]) := by
  have hrequest : cRequest (s.setMe l) d c =
      (s.pushC2P (.update l.acc d c)).setMe { l with acc := 0, outstanding := true } := by
    rw [cRequest, setMe_me, if_neg (Bool.eq_false_iff.1 h), setMe_pushC2P, setMe_setMe]
  simp only [cAnswer, hrequest, setMe_me]
  exact setMe_respond _ _ _

/-- The end of a call while a request is outstanding. -/
theorem cAnswer_of_outstanding (h : l.outstanding = true) (result : Option Byte) :
    cAnswer (s.setMe l) d c result =
      s.setMe (l.ended [0x90, d, c, flagsByte false l.disc, result.getD Status.notYetAvailable]) := by
  have hrequest : cRequest (s.setMe l) d c = s.setMe l := by
    rw [cRequest, setMe_me, if_pos h]
  simp only [cAnswer, hrequest, setMe_me]
  exact setMe_respond _ _ _

theorem cAnswered_of_irq {fl : Byte} (h : fl.getLsbD 0 = true) (nd nc st : Byte) :
    cAnswered (s.setMe l) d c nd nc fl st =
      s.setMe ((l.answered fl st).ended [0x90, nd, nc, flagsByte true (l.answered fl st).disc, st]) := by
  simp only [cAnswered, h, if_true, setMe_me, setMe_setMe]
  exact setMe_respond _ _ _

theorem cAnswered_of_no_irq {fl : Byte} (h : fl.getLsbD 0 = false) (nd nc st : Byte) :
    cAnswered (s.setMe l) d c nd nc fl st = cAnswer (s.setMe (l.answered fl st)) d c (some st) := by
  simp only [cAnswered, h, Bool.false_eq_true, if_false, setMe_me, setMe_setMe]

theorem cReceive_of_empty (h : s.p2c.bytes = []) : cReceive s d c = cAnswer s d c none := by
  unfold cReceive
  rw [h]
  rfl

theorem cReceive_of_updateRsp {nd nc fl st : Byte} {rest : List Byte}
    (h : headP2C s.p2c.bytes = some (.updateRsp nd nc fl st, rest)) :
    cReceive (s.setMe l) d c = cAnswered ((s.popP2C rest).setMe l) d c nd nc fl st := by
  unfold cReceive
  rw [setMe_p2c, h, ← setMe_popP2C]

theorem cReceive_of_other {g : ParentFrame} {rest : List Byte} (h : headP2C s.p2c.bytes = some (g, rest))
    (hg : ∀ nd nc fl st, g ≠ .updateRsp nd nc fl st) :
    cReceive (s.setMe l) d c = cAnswer ((s.popP2C rest).setMe l.logEvent) d c none := by
  have hdiscard : cDiscard (s.setMe l) rest = (s.popP2C rest).setMe l.logEvent := by
    rw [cDiscard, setMe_popP2C, setMe_setMe, setMe_me]
  unfold cReceive
  rw [setMe_p2c, h, ← hdiscard]
  cases g with
  | updateRsp nd nc fl st => exact absurd rfl (hg nd nc fl st)
  | attachRsp | errorRsp | junk => rfl

theorem cEof_setMe :
    cEof (s.setMe l) d c = ({ s with c2p := ⟨s.c2p.bytes, true⟩ }).setMe
      (({ l with seq := .closed, disc := true, outstanding := false, acc := 0 }).ended [0x90, d, c, 0x02, 0x03]) := by
  rw [cEof, setMe_respond, setMe_closeC2P, setMe_setMe, setMe_me]
  rfl

end

section
variable {s : State} (d c : Byte)

theorem eofP2C_eq_true_iff : s.eofP2C = true ↔ s.p2c.bytes = [] ∧ s.p2c.closed = true := by
  simp [State.eofP2C]

theorem cUpdate_of_eof (h : s.p2c.bytes = [] ∧ s.p2c.closed = true) : cUpdate s d c = cEof s d c :=
  if_pos (eofP2C_eq_true_iff.2 h)

theorem cUpdate_of_idle (h : ¬ (s.p2c.bytes = [] ∧ s.p2c.closed = true)) (ho : s.me.outstanding = false) :
    cUpdate s d c = cAnswer s d c none :=
  (if_neg (mt eofP2C_eq_true_iff.1 h)).trans (if_neg (Bool.eq_false_iff.1 ho))

theorem cUpdate_of_outstanding (h : ¬ (s.p2c.bytes = [] ∧ s.p2c.closed = true)) (ho : s.me.outstanding = true) :
    cUpdate s d c = cReceive s d c :=
  (if_neg (mt eofP2C_eq_true_iff.1 h)).trans (if_pos ho)

theorem flagsByte_no_irq (disc : Bool) : flagsByte false disc = if disc then 0x02 else 0x00 := by
  cases disc <;> rfl

/-- The child's own fields once a call has added its elapsed cycles (R131). -/
def SideState.accumulated (l : SideState) (e : Word) : SideState :=
  { l with acc := sat32 (l.acc.toNat + e.toNat) }

theorem exec_cUpdate {e : Word} {d c : Byte} (hmode : s.mode = .pipeChild) (hcmd : s.me.cmd = .update e d c)
    (hseq : s.me.seq = .attached) :
    exec .cUpdate s = .next (cUpdate (s.setMe (s.me.accumulated e)) d c) :=
  have hon : enabled s .cUpdate = true := decide_eq_true ⟨hmode, isUpdate_of_update hcmd, hseq⟩
  (whenEnabled_of_enabled hon _).trans (onUpdate_of_update hcmd _)

end

/-- Settles O45: EOF, no request outstanding, or an empty P2C that is not closed. -/
theorem cUpdateWithoutAnAnswer : Obligations.CUpdateWithoutAnAnswer := by
  intro s e d c hmode hcmd hseq acc request disc
  have hsame : (s.me.accumulated e).outstanding = s.me.outstanding := rfl
  refine ⟨_, exec_cUpdate hmode hcmd hseq, fun hempty hclosed => ?_, fun heof hidle => ?_, fun hempty hopen hout => ?_⟩
  · rw [cUpdate_of_eof d c (by rw [setMe_p2c]; exact ⟨hempty, hclosed⟩), cEof_setMe]
    exact localOnly_setMe _ _
  · rw [cUpdate_of_idle d c (by rwa [setMe_p2c]) (by rwa [setMe_me]),
      cAnswer_of_idle s _ d c (hsame.trans hidle), flagsByte_no_irq]
    exact localOnly_setMe _ _
  · rw [cUpdate_of_outstanding d c (by simp [hopen]) (by rwa [setMe_me]), cReceive_of_empty _ d c (by rwa [setMe_p2c]),
      cAnswer_of_outstanding s _ d c (hsame.trans hout), flagsByte_no_irq]
    exact localOnly_setMe _ _

/-- A whole frame that is no UPDATE_RSP, as O46 lists them. -/
theorem headP2C_of_no_updateRsp {f rest : List Byte}
    (h : (∃ st slot, f = [0x81, st, slot]) ∨ (∃ st, f = [0xFF, st]) ∨
      (∃ b, f = [b] ∧ b ≠ 0x81 ∧ b ≠ 0x90 ∧ b ≠ 0xFF)) :
    ∃ g, headP2C (f ++ rest) = some (g, rest) ∧ ∀ nd nc fl st, g ≠ .updateRsp nd nc fl st := by
  obtain ⟨st, slot, rfl⟩ | ⟨st, rfl⟩ | ⟨b, rfl, h81, h90, hFF⟩ := h
  · exact ⟨_, headP2C_attachRsp st slot rest, nofun⟩
  · exact ⟨_, headP2C_errorRsp st rest, nofun⟩
  · exact ⟨_, headP2C_junk h81 h90 hFF rest, nofun⟩

theorem not_eof_of_head {s : State} {g : ParentFrame} {rest : List Byte} (h : headP2C s.p2c.bytes = some (g, rest)) :
    ¬ (s.p2c.bytes = [] ∧ s.p2c.closed = true) := fun ⟨hempty, _⟩ => by
  rw [hempty] at h
  exact nomatch h

/-- Settles O46: the frame at the head is a delivery, another answer, or none of the child's. -/
theorem cUpdateWithAnAnswer : Obligations.CUpdateWithAnAnswer := by
  intro s e d c hmode hcmd hseq hout acc request
  have hlogged : (s.me.accumulated e).logEvent.outstanding = true := hout
  have received {g : ParentFrame} {rest : List Byte} (hhead : headP2C s.p2c.bytes = some (g, rest)) :
      cUpdate (s.setMe (s.me.accumulated e)) d c = cReceive (s.setMe (s.me.accumulated e)) d c :=
    cUpdate_of_outstanding d c (by rw [setMe_p2c]; exact not_eof_of_head hhead) (by rwa [setMe_me])
  refine ⟨_, exec_cUpdate hmode hcmd hseq, ?_, ?_⟩
  · intro nd nc fl st rest hbytes disc discBit
    have hhead : headP2C s.p2c.bytes = some (.updateRsp nd nc fl st, rest) := by rw [hbytes, headP2C_updateRsp]
    rw [received hhead, cReceive_of_updateRsp s _ d c hhead]
    refine ⟨fun hirq => ?_, fun hirq => ?_⟩
    · rw [cAnswered_of_irq _ _ d c hirq]
      exact localOnly_setMe _ _
    · rw [cAnswered_of_no_irq _ _ d c hirq, cAnswer_of_idle _ _ d c rfl, flagsByte_no_irq]
      exact localOnly_setMe _ _
  · intro f rest hbytes hf
    obtain ⟨g, hhead, hg⟩ := headP2C_of_no_updateRsp (rest := rest) hf
    rw [← hbytes] at hhead
    rw [received hhead, cReceive_of_other s _ d c hhead hg, cAnswer_of_outstanding _ _ d c hlogged,
      flagsByte_no_irq]
    exact localOnly_setMe _ _

/-! C_CLOSE (R132) -/

/-- Settles O47: DETACH is said, or not, before the stream is closed. -/
theorem cCloseResult : Obligations.CCloseResult := by
  intro s hmode hcmd hseq hroom sent
  have hon : enabled s .cClose = true :=
    decide_eq_true ⟨hmode, hcmd, hseq, hroom.imp_left Nat.sub_pos_of_lt⟩
  have hsent : (if s.p2c.closed then s else s.pushC2P .detach) = { s with c2p := sent } := by
    cases hclosed : s.p2c.closed <;> simp only [sent, hclosed] <;> rfl
  refine ⟨_, whenEnabled_of_enabled hon _, ?_⟩
  rw [cClose, hsent, setMe_respond]
  exact localOnly_setMe _ _

end Sys2Proof.Machine
end

section
/-! PROOFS. What the FIFOs of a conforming pair hold (43_fifo_transport.md R124): the contents by the child's L.SEQ, what
SERVICE makes of them, and the streams as the acting side sees them. -/

namespace Sys2Proof.Machine

/-! The contents by L.SEQ (R124) -/

section
variable {l l' : SideState} {q r : List Byte}

theorem length_updateRequest (h : isUpdateRequest q) : q.length = 7 := by
  obtain ⟨e, d, c, rfl⟩ := h
  rfl

theorem length_updateResponse (h : isUpdateResponse r) : r.length = 5 := by
  obtain ⟨nd, nc, irq, disc, st, rfl⟩ := h
  rfl

theorem length_attachResponse (h : isAttachResponse r) : r.length = 3 := by
  obtain ⟨st, slot, rfl⟩ := h
  rfl

theorem pipeContents_detached (hl : l.seq = .detached) :
    pipeContents l q r ↔ q = [] ∧ r = [] ∧ l.outstanding = false := by
  simp only [pipeContents, hl]

theorem pipeContents_joining (hl : l.seq = .joining) :
    pipeContents l q r ↔ l.outstanding = false ∧ ((q = [0x01] ∧ r = []) ∨ (q = [] ∧ isAttachResponse r)) := by
  simp only [pipeContents, hl]

theorem pipeContents_attached (hl : l.seq = .attached) :
    pipeContents l q r ↔
      (l.outstanding = false ∧ q = [] ∧ r = []) ∨
      (l.outstanding = true ∧ ((isUpdateRequest q ∧ r = []) ∨ (q = [] ∧ isUpdateResponse r))) := by
  simp only [pipeContents, hl]

theorem pipeContents_closed (hl : l.seq = .closed) :
    pipeContents l q r ↔
      (r = [] ∧ (q = [] ∨ q = [0x01] ∨ q = [0x04] ∨ isUpdateRequest q ∨ ∃ u, isUpdateRequest u ∧ q = u ++ [0x04])) ∨
      ((isUpdateResponse r ∨ isAttachResponse r) ∧ (q = [] ∨ q = [0x04])) := by
  simp only [pipeContents, hl]

theorem pipeContents_congr (hseq : l'.seq = l.seq) (hout : l'.outstanding = l.outstanding) (h : pipeContents l q r) :
    pipeContents l' q r := by
  simpa only [pipeContents, hseq, hout] using h

/-- The places of R31 that a child is in. -/
theorem seq_of_pipeContents (h : pipeContents l q r) :
    l.seq = .detached ∨ l.seq = .joining ∨ l.seq = .attached ∨ l.seq = .closed := by
  cases hl : l.seq with
  | detached | joining | attached | closed => simp
  | created | initialized | publishedSeen => simp [pipeContents, hl] at h

/-- A child that becomes CLOSED leaves behind what it had (R124). -/
theorem pipeContents_close (hl : l'.seq = .closed) (h : pipeContents l q r) : pipeContents l' q r := by
  rw [pipeContents_closed hl]
  obtain hs | hs | hs | hs := seq_of_pipeContents h
  · obtain ⟨hq, hr, _⟩ := (pipeContents_detached hs).1 h
    exact .inl ⟨hr, .inl hq⟩
  · obtain ⟨_, ⟨hq, hr⟩ | ⟨hq, hr⟩⟩ := (pipeContents_joining hs).1 h
    · exact .inl ⟨hr, .inr (.inl hq)⟩
    · exact .inr ⟨.inr hr, .inl hq⟩
  · obtain ⟨_, hq, hr⟩ | ⟨_, ⟨hq, hr⟩ | ⟨hq, hr⟩⟩ := (pipeContents_attached hs).1 h
    · exact .inl ⟨hr, .inl hq⟩
    · exact .inl ⟨hr, .inr (.inr (.inr (.inl hq)))⟩
    · exact .inr ⟨.inl hr, .inl hq⟩
  · exact (pipeContents_closed hs).1 h

theorem pipeContents_close_empty (hl : l.seq = .closed) : pipeContents l [] [] :=
  (pipeContents_closed hl).2 (.inl ⟨rfl, .inl rfl⟩)

/-- An ATTACHED child that closes says DETACH behind its request, if one waits (R132). -/
theorem pipeContents_sayDetach (hs : l.seq = .attached) (hl : l'.seq = .closed) (h : pipeContents l q r) :
    pipeContents l' (q ++ [0x04]) r := by
  rw [pipeContents_closed hl]
  obtain ⟨_, rfl, hr⟩ | ⟨_, ⟨hq, hr⟩ | ⟨rfl, hr⟩⟩ := (pipeContents_attached hs).1 h
  · exact .inl ⟨hr, .inr (.inr (.inl rfl))⟩
  · exact .inl ⟨hr, .inr (.inr (.inr (.inr ⟨q, hq, rfl⟩)))⟩
  · exact .inr ⟨.inl hr, .inr rfl⟩

/-- At most UPDATE and DETACH wait in C2P, and one UPDATE_RSP in P2C (R124). -/
theorem length_of_pipeContents (h : pipeContents l q r) : q.length ≤ 8 ∧ r.length ≤ 5 := by
  have hclosed : pipeContents { l with seq := .closed } q r := pipeContents_close rfl h
  obtain ⟨rfl, hq⟩ | ⟨hr, hq⟩ := (pipeContents_closed rfl).1 hclosed
  · refine ⟨?_, Nat.zero_le _⟩
    obtain rfl | rfl | rfl | hu | ⟨u, hu, rfl⟩ := hq
    · decide
    · decide
    · decide
    · simp [length_updateRequest hu]
    · simp [length_updateRequest hu]
  · refine ⟨?_, hr.elim (fun h => (length_updateResponse h).le) fun h => by simp [length_attachResponse h]⟩
    obtain rfl | rfl := hq <;> decide

end

/-! SERVICE on the contents (R126) -/

section
variable {s : State}

theorem service_fifos_of_empty (h : s.c2p.bytes = []) : (service s).c2p = s.c2p ∧ (service s).p2c = s.p2c := by
  by_cases hgo : s.c2p.closed = true ∧ s.store.alive .one = 0x01
  · rw [service_of_end h hgo]
    exact ⟨rfl, rfl⟩
  · rw [service_of_no_frame h hgo]
    exact ⟨rfl, rfl⟩

theorem service_fifos_of_detach (h : s.c2p.bytes = [0x04]) :
    (service s).c2p.bytes = [] ∧ (service s).p2c = s.p2c := by
  rw [service_of_frame (by rw [h, headC2P_detach]) (Nat.zero_le _)]
  exact ⟨rfl, rfl⟩

/-- The answer to a frame goes to an empty P2C that is not closed. -/
theorem push_answer (hr : s.p2c.bytes = []) (hopen : s.p2c.closed = false) {f : List Byte}
    (hf : f.length ≤ s.cfg.fifoDepth) : (s.p2c.push s.cfg.fifoDepth f).bytes = f := by
  rw [push_of_room hopen (by simpa [hr] using hf), hr]
  rfl

theorem service_fifos_of_attach (h : s.c2p.bytes = [0x01]) (hr : s.p2c.bytes = []) (hopen : s.p2c.closed = false)
    (hdepth : 8 ≤ s.cfg.fifoDepth) : (service s).c2p.bytes = [] ∧ isAttachResponse (service s).p2c.bytes := by
  have answered (st slot : Byte) :
      isAttachResponse (s.p2c.push s.cfg.fifoDepth (encode (.attachRsp st slot))).bytes :=
    ⟨st, slot, push_answer hr hopen (show 3 ≤ _ by omega)⟩
  have hrun : service s = serviceAttach (s.popC2P []) :=
    service_of_frame (f := .attach) (by rw [h, headC2P_attach]) (by simp only [serviceNeed, hr, List.length_nil]; omega)
  rw [hrun, serviceAttach]
  split
  · exact ⟨rfl, answered _ _⟩
  · exact ⟨rfl, answered _ _⟩

theorem service_fifos_of_update {u rest : List Byte} (hu : isUpdateRequest u) (h : s.c2p.bytes = u ++ rest)
    (hr : s.p2c.bytes = []) (hopen : s.p2c.closed = false) (hdepth : 8 ≤ s.cfg.fifoDepth) :
    (service s).c2p.bytes = rest ∧ isUpdateResponse (service s).p2c.bytes := by
  have answered (nd nc : Byte) (irq disc : Bool) (st : Byte) :
      isUpdateResponse (s.p2c.push s.cfg.fifoDepth (encode (.updateRsp nd nc irq disc st))).bytes :=
    ⟨nd, nc, irq, disc, st, push_answer hr hopen (show 5 ≤ _ by omega)⟩
  obtain ⟨e, d, c, rfl⟩ := hu
  have hrun : service s = serviceUpdate (s.popC2P rest) e d c :=
    service_of_frame (f := .update e d c) (by rw [h, headC2P_update])
      (by simp only [serviceNeed, hr, List.length_nil]; omega)
  rw [hrun]
  by_cases halive : (s.popC2P rest).store.alive .one = 0x01
  · rw [serviceUpdate_of_alive _ e d c halive, setMe_c2p, setMe_p2c]
    exact ⟨rfl, answered _ _ _ _ _⟩
  · rw [serviceUpdate_of_not_alive _ e d c halive]
    exact ⟨rfl, answered _ _ _ _ _⟩

theorem serviceFrame_closed (f : ChildFrame) :
    (serviceFrame s f).c2p.closed = s.c2p.closed ∧ (serviceFrame s f).p2c.closed = s.p2c.closed := by
  cases f with
  | attach =>
    simp only [serviceFrame, serviceAttach]
    split <;> exact ⟨rfl, push_closed _ _ _⟩
  | detach => exact ⟨rfl, rfl⟩
  | update e d c =>
    by_cases halive : s.store.alive .one = 0x01
    · rw [serviceFrame, serviceUpdate_of_alive s e d c halive, setMe_c2p, setMe_p2c]
      exact ⟨rfl, push_closed _ _ _⟩
    · rw [serviceFrame, serviceUpdate_of_not_alive s e d c halive]
      exact ⟨rfl, push_closed _ _ _⟩
  | junk =>
    rw [serviceFrame_junk, setMe_c2p, setMe_p2c]
    exact ⟨rfl, push_closed _ _ _⟩

/-- SERVICE closes no stream (R122). -/
theorem service_closed : (service s).c2p.closed = s.c2p.closed ∧ (service s).p2c.closed = s.p2c.closed := by
  obtain ⟨_, _, h⟩ | ⟨_, _, _, h⟩ | ⟨_, _, _, _, h⟩ | ⟨f, rest, _, _, h⟩ := service_cases s <;> rw [h]
  · exact ⟨rfl, rfl⟩
  · exact ⟨rfl, rfl⟩
  · exact ⟨rfl, rfl⟩
  · exact serviceFrame_closed (s := s.popC2P rest) f

/-- A request that waits becomes its answer, whatever place the child is in by then (R124, R126). -/
theorem pipeContents_service {l : SideState} (hopen : s.p2c.closed = false) (hdepth : 8 ≤ s.cfg.fifoDepth)
    (h : pipeContents l s.c2p.bytes s.p2c.bytes) : pipeContents l (service s).c2p.bytes (service s).p2c.bytes := by
  have still (hq : s.c2p.bytes = []) : pipeContents l (service s).c2p.bytes (service s).p2c.bytes := by
    obtain ⟨hc2p, hp2c⟩ := service_fifos_of_empty hq
    rwa [hc2p, hp2c]
  obtain hs | hs | hs | hs := seq_of_pipeContents h
  · exact still ((pipeContents_detached hs).1 h).1
  · obtain ⟨hout, ⟨hq, hr⟩ | ⟨hq, _⟩⟩ := (pipeContents_joining hs).1 h
    · exact (pipeContents_joining hs).2 ⟨hout, .inr (service_fifos_of_attach hq hr hopen hdepth)⟩
    · exact still hq
  · obtain ⟨_, hq, _⟩ | ⟨hout, ⟨hu, hr⟩ | ⟨hq, _⟩⟩ := (pipeContents_attached hs).1 h
    · exact still hq
    · have hanswer := service_fifos_of_update hu (List.append_nil _).symm hr hopen hdepth
      exact (pipeContents_attached hs).2 (.inr ⟨hout, .inr hanswer⟩)
    · exact still hq
  · rw [pipeContents_closed hs] at h ⊢
    obtain ⟨hr, hq | hq | hq | hu | ⟨u, hu, hq⟩⟩ | ⟨hr, hq | hq⟩ := h
    · exact (pipeContents_closed hs).1 (still hq)
    · obtain ⟨hq', hr'⟩ := service_fifos_of_attach hq hr hopen hdepth
      exact .inr ⟨.inr hr', .inl hq'⟩
    · obtain ⟨hq', hr'⟩ := service_fifos_of_detach hq
      exact .inl ⟨hr' ▸ hr, .inl hq'⟩
    · obtain ⟨hq', hr'⟩ := service_fifos_of_update hu (List.append_nil _).symm hr hopen hdepth
      exact .inr ⟨.inl hr', .inl hq'⟩
    · obtain ⟨hq', hr'⟩ := service_fifos_of_update hu hq hr hopen hdepth
      exact .inr ⟨.inl hr', .inr hq'⟩
    · exact (pipeContents_closed hs).1 (still hq)
    · obtain ⟨hq', hr'⟩ := service_fifos_of_detach hq
      exact .inr ⟨hr' ▸ hr, .inl hq'⟩

end

/-! The streams of a child, and the pair as the acting side sees it -/

/-- What R124 says of the FIFOs of `t` when the child's local state is `l`, and the other side's mode is `n` and its
local state `r`. -/
structure ChildStreams (n : Mode) (t : State) (l r : SideState) : Prop where
  contents : pipeContents l t.c2p.bytes t.p2c.bytes
  c2pClosed : t.c2p.closed = true → l.seq = .closed
  p2cClosed : t.p2c.closed = true → n = .pipeParent → r.seq = .closed

/-- `pipeOk` for the acting side, of mode `m` with local state `l`, and the other, of mode `n` with `r`. -/
structure PipeFrom (m n : Mode) (t : State) (l r : SideState) : Prop where
  mine : m = .pipeChild → ChildStreams n t l r
  other : n = .pipeChild → ChildStreams m t r l
  empty : m ≠ .pipeChild → n ≠ .pipeChild → t.c2p.bytes = [] ∧ t.p2c.bytes = []

theorem pipeSideOk_iff (s : State) (X : Side) :
    pipeSideOk s X ↔ ChildStreams (s.cfg.mode (otherSide X)) s (s.side X) (s.side (otherSide X)) :=
  ⟨fun ⟨hc, hq, hp⟩ => ⟨hc, hq, hp⟩, fun ⟨hc, hq, hp⟩ => ⟨hc, hq, hp⟩⟩

theorem pipeOk_iff (s : State) (X : Side) :
    pipeOk s ↔ PipeFrom (s.cfg.mode X) (s.cfg.mode (otherSide X)) s (s.side X) (s.side (otherSide X)) := by
  have hother : pipeSideOk s (otherSide X) ↔
      ChildStreams (s.cfg.mode X) s (s.side (otherSide X)) (s.side X) := by
    rw [pipeSideOk_iff, otherSide_otherSide]
  constructor
  · rintro ⟨hchild, hempty⟩
    refine ⟨fun hm => (pipeSideOk_iff s X).1 (hchild X hm), fun hn => hother.1 (hchild _ hn), fun hm hn => ?_⟩
    cases X
    · exact hempty hm hn
    · exact hempty hn hm
  · rintro ⟨hmine, hchild, hempty⟩
    refine ⟨fun Y hY => ?_, fun hA hB => ?_⟩
    · obtain rfl | rfl := eq_or_eq_otherSide X Y
      · exact (pipeSideOk_iff s Y).2 (hmine hY)
      · exact hother.2 (hchild hY)
    · cases X
      · exact hempty hA hB
      · exact hempty hB hA

/-- R11 has no pair of two children. -/
theorem not_two_children {p : Params} (h : p.legalModePair = true) (X : Side) :
    ¬ (p.mode X = .pipeChild ∧ p.mode (otherSide X) = .pipeChild) := by
  obtain ⟨hA, hB⟩ | ⟨hA, hB⟩ | ⟨hA, hB⟩ | hA | hB := (legalModePair_iff p).1 h <;> cases X <;>
    simp [Params.mode, otherSide, *]

section
variable {m n : Mode} {s t : State} {l l' r : SideState}

theorem childStreams_setMe : ChildStreams n (s.setMe l) (s.setMe l).me r ↔ ChildStreams n s l r := by
  rw [setMe_me]
  constructor <;> rintro ⟨hc, hq, hp⟩
  · rw [setMe_c2p, setMe_p2c] at *
    exact ⟨hc, hq, hp⟩
  · exact ⟨by rwa [setMe_c2p, setMe_p2c], by rwa [setMe_c2p], by rwa [setMe_p2c]⟩

theorem ChildStreams.c2p_open (h : ChildStreams n s l r) (hl : l.seq ≠ .closed) : s.c2p.closed = false :=
  Bool.eq_false_iff.2 (mt h.c2pClosed hl)

/-- The child closes C2P and itself, whatever it left there (R124). -/
theorem ChildStreams.closeC2P (h : ChildStreams n s l r) (hl : l'.seq = .closed) :
    ChildStreams n { s with c2p := ⟨s.c2p.bytes, true⟩ } l' r :=
  ⟨pipeContents_close hl h.contents, fun _ => hl, h.p2cClosed⟩

theorem PipeFrom.of_child (hm : m = .pipeChild) (hp : ¬ (m = .pipeChild ∧ n = .pipeChild)) (h : ChildStreams n t l r) :
    PipeFrom m n t l r :=
  ⟨fun _ => h, fun hn => absurd ⟨hm, hn⟩ hp, fun hno => absurd hm hno⟩

/-- A parent's action on what the FIFOs hold, empty ones without a child among it. -/
theorem PipeFrom.of_parent (h : PipeFrom m n s l r) (hm : m = .pipeParent)
    (hc : n = .pipeChild → pipeContents r t.c2p.bytes t.p2c.bytes) (hq : t.c2p.closed = s.c2p.closed)
    (hp : n = .pipeChild → t.p2c.closed = true → l'.seq = .closed)
    (hempty : s.c2p.bytes = [] → s.p2c.bytes = [] → t.c2p.bytes = [] ∧ t.p2c.bytes = []) : PipeFrom m n t l' r := by
  refine ⟨by simp [hm], fun hn => ⟨hc hn, fun hclosed => ?_, fun hclosed _ => hp hn hclosed⟩, fun hno hn => ?_⟩
  · exact (h.other hn).c2pClosed (hq.symm.trans hclosed)
  · obtain ⟨hq0, hp0⟩ := h.empty hno hn
    exact hempty hq0 hp0

/-- A parent's action that leaves the bytes where they are. -/
theorem PipeFrom.of_parent_bytes (h : PipeFrom m n s l r) (hm : m = .pipeParent) (hc2p : t.c2p = s.c2p)
    (hp2c : t.p2c.bytes = s.p2c.bytes) (hp : n = .pipeChild → t.p2c.closed = true → l'.seq = .closed) :
    PipeFrom m n t l' r :=
  h.of_parent hm (fun hn => by rw [hc2p, hp2c]; exact (h.other hn).contents) (congrArg Fifo.closed hc2p) hp
    fun hq0 hp0 => by rw [hc2p, hp2c]; exact ⟨hq0, hp0⟩

/-- No parent but a CLOSED one has closed P2C (R122). -/
theorem PipeFrom.p2c_open (h : PipeFrom m n s l r) (hm : m = .pipeParent) (hl : l.seq ≠ .closed)
    (hn : n = .pipeChild) : s.p2c.closed = false :=
  Bool.eq_false_iff.2 fun hclosed => hl ((h.other hn).p2cClosed hclosed hm)

end

end Sys2Proof.Machine
end

section
/-! PROOFS. Every action keeps what the FIFOs of a conforming pair hold (43_fifo_transport.md R124): the moves that leave
the FIFOs to themselves, the child's µ-ops, the parent's, the step, and the statement O59. -/

namespace Sys2Proof.Machine

/-! Moves that leave the FIFOs to themselves -/

/-- From `s` to `t` both FIFOs stay as they are. -/
structure FifosStay (s t : State) : Prop where
  c2p : t.c2p = s.c2p
  p2c : t.p2c = s.p2c

section
variable {s t u : State}

theorem FifosStay.refl (s : State) : FifosStay s s := ⟨rfl, rfl⟩

theorem FifosStay.trans (h : FifosStay s t) (hu : FifosStay t u) : FifosStay s u :=
  ⟨hu.c2p.trans h.c2p, hu.p2c.trans h.p2c⟩

theorem FifosStay.ite {c : Prop} [Decidable c] (ht : FifosStay s t) (hu : FifosStay s u) :
    FifosStay s (if c then t else u) := by
  split
  · exact ht
  · exact hu

theorem FifosStay.setMe (h : FifosStay s t) (l : SideState) : FifosStay s (t.setMe l) :=
  h.trans ⟨setMe_c2p t l, setMe_p2c t l⟩
theorem FifosStay.respond (h : FifosStay s t) (f : Instr) : FifosStay s (t.respond f) := h.setMe _
theorem FifosStay.attachFails (h : FifosStay s t) : FifosStay s t.attachFails := (h.setMe _).respond _
theorem FifosStay.afterDraw (h : FifosStay s t) : FifosStay s t.afterDraw :=
  h.trans ⟨afterDraw_c2p t, afterDraw_p2c t⟩
theorem FifosStay.setStore (h : FifosStay s t) (m : Memory) : FifosStay s { t with store := m } := h.trans ⟨rfl, rfl⟩
theorem FifosStay.setLock (h : FifosStay s t) (o : Option Side) : FifosStay s { t with lockOwner := o } :=
  h.trans ⟨rfl, rfl⟩
theorem FifosStay.createStore (h : FifosStay s t) : FifosStay s t.createStore := h.trans ⟨rfl, rfl⟩
theorem FifosStay.destroyStore (h : FifosStay s t) : FifosStay s t.destroyStore := h.trans ⟨rfl, rfl⟩
theorem FifosStay.ownStep (h : FifosStay s t) (k : Slot) (e : Word) (d c : Byte) : FifosStay s (t.ownStep k e d c) :=
  ((h.setStore _).setMe _).respond _

end

section
variable (s : State)

theorem fifosStay_createOrOpen (fail : Bool) : FifosStay s (createOrOpen s fail) :=
  have start := FifosStay.refl s
  .ite (start.respond _) (.ite (start.setMe _) ((start.createStore.setLock _).setMe _))

theorem fifosStay_pollInit : FifosStay s (pollInit s) :=
  have start := FifosStay.refl s
  .ite start.attachFails (.ite (start.setMe _) (.ite (start.setMe _).attachFails (start.setMe _)))

theorem fifosStay_claimSlot : FifosStay s (claimSlot s) := by
  have start := FifosStay.refl s
  refine .ite start.attachFails ?_
  cases freeSlot s.store with
  | none => exact start.attachFails
  | some k => exact ((start.setStore _).setMe _).respond _

theorem fifosStay_detachFrom (k : Slot) : FifosStay s (detachFrom s k) :=
  have left : FifosStay s { s with store := leaveSlot s.store k } := (FifosStay.refl s).setStore _
  ((FifosStay.ite left.destroyStore left).setMe _).respond _

theorem fifosStay_tryLock (d c : Byte) : FifosStay s (tryLock s d c) :=
  have tried (u : State) (granted : Bool) : FifosStay u (lockAcquire u granted d c) :=
    .ite ((FifosStay.refl u).setLock _) ((FifosStay.refl u).respond _)
  .ite ((FifosStay.refl s).afterDraw.trans (tried _ _)) (tried s true)

theorem fifosStay_unlinkedAnswer : FifosStay s (unlinkedAnswer s) := by
  unfold unlinkedAnswer
  cases s.me.cmd with
  | update | attach | detach => exact (FifosStay.refl s).respond _
  | none | query | illegal => exact .refl s

theorem fifosStay_trivialAnswer : FifosStay s (trivialAnswer s) := by
  unfold trivialAnswer
  cases s.me.cmd with
  | update | detach => exact (FifosStay.refl s).respond _
  | attach => exact .ite ((FifosStay.refl s).respond _) ((FifosStay.refl s).respond _)
  | none | query | illegal => exact .refl s

theorem trivialAnswer_place :
    (trivialAnswer s).me.seq = s.me.seq ∧ (trivialAnswer s).me.outstanding = s.me.outstanding := by
  unfold trivialAnswer
  cases s.me.cmd with
  | update | detach => simp [State.passThrough]
  | attach => split_ifs <;> simp
  | none | query | illegal => exact ⟨rfl, rfl⟩

end

section
variable {m n : Mode} {s t : State} {l r : SideState}

/-- A move that leaves the FIFOs to themselves, and a PIPE side in its place. -/
theorem PipeFrom.stay (h : PipeFrom m n s s.me r) (hf : FifosStay s t)
    (hl : m ≠ .shm → m ≠ .unlinked → t.me.seq = s.me.seq ∧ t.me.outstanding = s.me.outstanding) :
    PipeFrom m n t t.me r := by
  have place (hm : m = .pipeChild ∨ m = .pipeParent) := hl (by obtain rfl | rfl := hm <;> nofun)
    (by obtain rfl | rfl := hm <;> nofun)
  refine ⟨fun hm => ?_, fun hn => ?_, by rw [hf.c2p, hf.p2c]; exact h.empty⟩
  · obtain ⟨hc, hq, hp⟩ := h.mine hm
    obtain ⟨hseq, hout⟩ := place (.inl hm)
    exact ⟨by rw [hf.c2p, hf.p2c]; exact pipeContents_congr hseq hout hc, by rwa [hf.c2p, hseq], by rwa [hf.p2c]⟩
  · obtain ⟨hc, hq, hp⟩ := h.other hn
    refine ⟨by rwa [hf.c2p, hf.p2c], by rwa [hf.c2p], fun hclosed hm => ?_⟩
    rw [hf.p2c] at hclosed
    exact (place (.inr hm)).1.trans (hp hclosed hm)

theorem PipeFrom.setMe (h : PipeFrom m n s s.me r) (hseq : l.seq = s.me.seq) (hout : l.outstanding = s.me.outstanding) :
    PipeFrom m n (s.setMe l) (s.setMe l).me r :=
  h.stay ((FifosStay.refl s).setMe l) fun _ _ => by rw [setMe_me]; exact ⟨hseq, hout⟩

end

/-! The child's µ-ops (R129 to R132) -/

section
variable {n : Mode} {s : State} {l r : SideState}

theorem childStreams_cAttachFails (h : ChildStreams n s l r) (st : Byte) :
    ChildStreams n (cAttachFails s st) (cAttachFails s st).me r := by
  rw [cAttachFails_eq, childStreams_setMe]
  exact h.closeC2P rfl

/-- The child took the last bytes of P2C, and nothing is on its way. -/
theorem ChildStreams.pop (h : ChildStreams n s s.me r) {q : List Byte} (hc : pipeContents l s.c2p.bytes q)
    (hl : l.seq = .closed ∨ s.me.seq ≠ .closed) : ChildStreams n (s.popP2C q) l r :=
  ⟨hc, fun hclosed => hl.elim id fun hne => absurd (h.c2pClosed hclosed) hne, h.p2cClosed⟩

/-- ATTACH goes to an empty C2P that is not closed (R129). -/
theorem childStreams_cSend (h : ChildStreams n s s.me r) (hq : s.me.seq = .detached) (hdepth : 8 ≤ s.cfg.fifoDepth) :
    ChildStreams n (cSend s) (cSend s).me r := by
  obtain ⟨hc2p, hp2c, hout⟩ := (pipeContents_detached hq).1 h.contents
  have hpush : s.c2p.push s.cfg.fifoDepth [0x01] = ⟨[0x01], false⟩ := by
    rw [push_of_room (h.c2p_open (by simp [hq])) (by rw [hc2p]; exact show 1 ≤ _ by omega), hc2p]
    rfl
  rw [cSend_eq, childStreams_setMe, hpush]
  exact ⟨(pipeContents_joining rfl).2 ⟨hout, .inl ⟨rfl, hp2c⟩⟩, nofun, h.p2cClosed⟩

theorem childStreams_cPollAgain (h : ChildStreams n s s.me r) : ChildStreams n (cPollAgain s) (cPollAgain s).me r := by
  have counted : ChildStreams n s { s.me with polls := s.me.polls + 1 } r :=
    ⟨pipeContents_congr rfl rfl h.contents, h.c2pClosed, h.p2cClosed⟩
  by_cases hlast : s.me.polls + 1 = s.cfg.initPollLimit
  · rw [cPollAgain_of_last hlast, cAttachFails_setMe, childStreams_setMe]
    exact counted.closeC2P rfl
  · rw [cPollAgain_of_more hlast, childStreams_setMe]
    exact counted

theorem childStreams_cRecv (h : ChildStreams n s s.me r) (hq : s.me.seq = .joining) :
    ChildStreams n (cRecv s) (cRecv s).me r := by
  obtain ⟨hout, ⟨_, hp2c⟩ | ⟨hc2p, st, slot, hp2c⟩⟩ := (pipeContents_joining hq).1 h.contents
  · rw [cRecv_of_empty hp2c]
    split
    · exact childStreams_cAttachFails h _
    · exact childStreams_cPollAgain h
  · have hhead : headP2C s.p2c.bytes = some (.attachRsp st slot, []) := by
      rw [hp2c]
      exact headP2C_attachRsp st slot []
    rw [cRecv_of_attachRsp hhead]
    split
    · rw [setMe_respond, childStreams_setMe]
      exact h.pop ((pipeContents_attached rfl).2 (.inl ⟨hout, hc2p, rfl⟩)) (.inr (by simp [hq]))
    · have hclosed : pipeContents { s.me with seq := .closed } s.c2p.bytes [] := by
        rw [hc2p]
        exact pipeContents_close_empty rfl
      exact childStreams_cAttachFails (h.pop hclosed (.inl rfl)) _

/-- A request goes to an empty C2P that is not closed (R131). -/
theorem childStreams_request (hl : l.seq = .attached) (hout : l.outstanding = false) (hopen : s.c2p.closed = false)
    (hc2p : s.c2p.bytes = []) (hp2c : s.p2c.bytes = []) (hdepth : 8 ≤ s.cfg.fifoDepth)
    (hp : s.p2c.closed = true → n = .pipeParent → r.seq = .closed) (d c : Byte) (result : Option Byte) :
    ChildStreams n (cAnswer (s.setMe l) d c result) (cAnswer (s.setMe l) d c result).me r := by
  have hpush : s.c2p.push s.cfg.fifoDepth (encode (.update l.acc d c)) = ⟨encode (.update l.acc d c), false⟩ := by
    rw [push_of_room hopen (by rw [hc2p]; exact show 7 ≤ _ by omega), hc2p]
    rfl
  rw [cAnswer_of_idle s l d c hout, childStreams_setMe, State.pushC2P, hpush]
  refine ⟨(pipeContents_attached ?_).2 (.inr ⟨rfl, .inl ⟨⟨l.acc, d, c, rfl⟩, hp2c⟩⟩), nofun, hp⟩
  exact hl

/-- C_UPDATE with an answer of the parent that is on its way (R131). -/
theorem childStreams_cAnswered (h : ChildStreams n s l r) (hl : l.seq = .attached) (hc2p : s.c2p.bytes = [])
    (hdepth : 8 ≤ s.cfg.fifoDepth) (d c nd nc fl st : Byte) :
    ChildStreams n (cAnswered ((s.popP2C []).setMe l) d c nd nc fl st)
      (cAnswered ((s.popP2C []).setMe l) d c nd nc fl st).me r := by
  have hopen := h.c2p_open (by simp [hl])
  cases hirq : fl.getLsbD 0 with
  | true =>
    rw [cAnswered_of_irq _ l d c hirq, childStreams_setMe]
    refine ⟨(pipeContents_attached ?_).2 (.inl ⟨rfl, hc2p, rfl⟩), fun hclosed => ?_, h.p2cClosed⟩
    · exact hl
    · exact absurd (hopen.symm.trans hclosed) (by decide)
  | false =>
    rw [cAnswered_of_no_irq _ l d c hirq]
    exact childStreams_request (s := s.popP2C []) (l := l.answered fl st) hl rfl hopen hc2p rfl hdepth h.p2cClosed d c _

theorem childStreams_cUpdate (h : ChildStreams n s l r) (hl : l.seq = .attached) (hdepth : 8 ≤ s.cfg.fifoDepth)
    (d c : Byte) : ChildStreams n (cUpdate (s.setMe l) d c) (cUpdate (s.setMe l) d c).me r := by
  by_cases heof : s.p2c.bytes = [] ∧ s.p2c.closed = true
  · rw [cUpdate_of_eof d c (by rwa [setMe_p2c]), cEof_setMe, childStreams_setMe]
    exact h.closeC2P rfl
  obtain ⟨hout, hc2p, hp2c⟩ | ⟨hout, hwait⟩ := (pipeContents_attached hl).1 h.contents
  · rw [cUpdate_of_idle d c (by rwa [setMe_p2c]) (by rwa [setMe_me])]
    exact childStreams_request hl hout (h.c2p_open (by simp [hl])) hc2p hp2c hdepth h.p2cClosed d c none
  · rw [cUpdate_of_outstanding d c (by rwa [setMe_p2c]) (by rwa [setMe_me])]
    obtain ⟨_, hp2c⟩ | ⟨hc2p, nd, nc, irq, disc, st, hp2c⟩ := hwait
    · rw [cReceive_of_empty _ d c (by rwa [setMe_p2c]), cAnswer_of_outstanding s l d c hout, childStreams_setMe]
      exact ⟨pipeContents_congr rfl rfl h.contents, h.c2pClosed, h.p2cClosed⟩
    · have hhead : headP2C s.p2c.bytes = some (.updateRsp nd nc (flagsByte irq disc) st, []) := by
        rw [hp2c]
        exact headP2C_updateRsp nd nc _ st []
      rw [cReceive_of_updateRsp s l d c hhead]
      exact childStreams_cAnswered h hl hc2p hdepth d c nd nc _ st

theorem childStreams_cClose (h : ChildStreams n s s.me r) (hq : s.me.seq = .attached) :
    ChildStreams n (cClose s) (cClose s).me r := by
  have hsaid : pipeContents { s.me with seq := .closed } (if s.p2c.closed then s else s.pushC2P .detach).c2p.bytes
      s.p2c.bytes := by
    split
    · exact pipeContents_close rfl h.contents
    · obtain ⟨_, hpush⟩ | ⟨_, _, hpush⟩ := push_cases s.c2p s.cfg.fifoDepth (encode .detach) <;>
        rw [State.pushC2P, hpush]
      · exact pipeContents_close rfl h.contents
      · exact pipeContents_sayDetach hq rfl h.contents
  have hp2c : (if s.p2c.closed then s else s.pushC2P .detach).p2c = s.p2c := by split <;> rfl
  rw [cClose, setMe_respond, childStreams_setMe]
  refine ⟨?_, fun _ => rfl, fun hclosed => h.p2cClosed (hp2c ▸ hclosed)⟩
  show pipeContents _ _ (if s.p2c.closed then s else s.pushC2P .detach).p2c.bytes
  rw [hp2c]
  exact pipeContents_congr rfl rfl hsaid

theorem childStreams_execCSendAttach (h : ChildStreams n s s.me r) (hdepth : 8 ≤ s.cfg.fifoDepth) :
    EndsIn (fun u => ChildStreams n u u.me r) (execCSendAttach s) := by
  have drawn : ChildStreams n s.afterDraw s.afterDraw.me r := by
    obtain ⟨hc, hq, hp⟩ := h
    refine ⟨?_, ?_, ?_⟩
    · rwa [afterDraw_c2p, afterDraw_p2c, afterDraw_me]
    · rwa [afterDraw_c2p, afterDraw_me]
    · rwa [afterDraw_p2c]
  unfold execCSendAttach
  split_ifs with hidle hfail hon
  · exact endsIn_next (childStreams_cAttachFails drawn _)
  · obtain ⟨_, _, hq⟩ := hidle
    exact endsIn_next (childStreams_cSend drawn (by rwa [afterDraw_me]) (by rwa [afterDraw_cfg]))
  · exact endsIn_next drawn
  · exact endsIn_next h

end

/-! The parent's µ-ops (R125 to R128) -/

section
variable {n : Mode} {s : State} {r : SideState}

theorem pipeFrom_pOpen (h : PipeFrom s.mode n s s.me r) (hm : s.mode = .pipeParent) (hq : s.me.seq = .detached)
    (fail : Bool) : PipeFrom s.mode n (pOpen s fail) (pOpen s fail).me r := by
  cases fail with
  | true =>
    rw [pOpen_of_fail, setMe_me]
    exact h.of_parent_bytes hm (setMe_c2p _ _) (by rw [setMe_p2c]) fun _ _ => rfl
  | false =>
    rw [pOpen_of_ok, setMe_me]
    refine h.of_parent_bytes hm (setMe_c2p _ _) (by rw [setMe_p2c]) fun hn hclosed => ?_
    rw [setMe_p2c] at hclosed
    exact absurd hclosed (Bool.eq_false_iff.1 (h.p2c_open hm (by simp [hq]) hn))

theorem pipeFrom_pClose (h : PipeFrom s.mode n s s.me r) (hm : s.mode = .pipeParent) :
    PipeFrom s.mode n (pClose s) (pClose s).me r := by
  rw [pClose, setMe_respond, setMe_me]
  refine h.of_parent_bytes hm ?_ ?_ fun _ _ => rfl
  · rw [setMe_c2p]
    rfl
  · rw [setMe_p2c]
    rfl

/-- SERVICE, and STEP, which touches no FIFO (R127). -/
theorem pipeFrom_pUpdate (h : PipeFrom s.mode n s s.me r) (hm : s.mode = .pipeParent) (hq : s.me.seq = .attached)
    (hdepth : 8 ≤ s.cfg.fifoDepth) (e : Word) (d c : Byte) :
    PipeFrom s.mode n ((service s).ownStep .zero e d c) ((service s).ownStep .zero e d c).me r := by
  obtain ⟨hc2p, hp2c⟩ := (FifosStay.refl (service s)).ownStep .zero e d c
  obtain ⟨hqclosed, hpclosed⟩ := service_closed (s := s)
  have hopen := h.p2c_open hm (by simp [hq])
  refine h.of_parent hm (fun hn => ?_) (by rw [hc2p, hqclosed]) (fun hn hclosed => ?_) fun hq0 hp0 => ?_
  · rw [hc2p, hp2c]
    exact pipeContents_service (hopen hn) hdepth (h.other hn).contents
  · rw [hp2c, hpclosed] at hclosed
    exact absurd hclosed (Bool.eq_false_iff.1 (hopen hn))
  · obtain ⟨hq1, hp1⟩ := service_fifos_of_empty hq0
    rw [hc2p, hp2c, hq1, hp1]
    exact ⟨hq0, hp0⟩

end

/-! The FIFOs after every meaning -/

theorem pipeFrom_of_exec {i : Instr} {s t : State} {n : Mode} {r : SideState}
    (hp : ¬ (s.mode = .pipeChild ∧ n = .pipeChild)) (hdepth : 8 ≤ s.cfg.fifoDepth)
    (h : PipeFrom s.mode n s s.me r) (he : exec i s = .next t) : PipeFrom s.mode n t t.me r := by
  suffices hends : EndsIn (fun u => PipeFrom s.mode n u u.me r) (exec i s) from hends t he
  have guarded {q : Result} (hq : enabled s i = true → EndsIn (fun u => PipeFrom s.mode n u u.me r) q) :
      EndsIn (fun u => PipeFrom s.mode n u u.me r) (whenEnabled s i q) := endsIn_whenEnabled h hq
  have shared {u : State} (hm : s.mode = .shm) (hu : FifosStay s u) : PipeFrom s.mode n u u.me r :=
    h.stay hu fun hno => absurd hm hno
  have child {u : State} (hm : s.mode = .pipeChild) (hu : ChildStreams n s s.me r → ChildStreams n u u.me r) :
      PipeFrom s.mode n u u.me r := .of_child hm hp (hu (h.mine hm))
  have received (f : Instr) : PipeFrom s.mode n (s.receive f) (s.receive f).me r := h.setMe rfl rfl
  have start := FifosStay.refl s
  cases i with
  | attach | detach | query | update => exact guarded fun _ => endsIn_next (h.setMe rfl rfl)
  | attachRsp | detachRsp | queryRsp | errorRsp => exact endsIn_next (received _)
  | updateRsp =>
    refine endsIn_next (h.stay ((start.setMe _).setMe _) fun _ _ => ?_)
    rw [setMe_me, receive_me]
    exact ⟨rfl, rfl⟩
  | createOrOpen =>
    exact guarded fun hon => endsIn_next (shared (of_decide_eq_true hon).1
      (start.afterDraw.trans (fifosStay_createOrOpen _ _)))
  | initRegion =>
    exact guarded fun hon => endsIn_needStore (shared (of_decide_eq_true hon).1 ((start.setStore _).setMe _))
  | publish =>
    exact guarded fun hon => endsIn_needStore (shared (of_decide_eq_true hon).1 (((start.setStore _).setMe _).respond _))
  | pollInit => exact guarded fun hon => endsIn_next (shared (of_decide_eq_true hon).1 (fifosStay_pollInit s))
  | claimSlot => exact guarded fun hon => endsIn_next (shared (of_decide_eq_true hon).1 (fifosStay_claimSlot s))
  | detachExec =>
    exact guarded fun hon => endsIn_atOwnSlot fun k => shared (of_decide_eq_true hon).1 (fifosStay_detachFrom s k)
  | lockAcquire =>
    exact guarded fun hon => endsIn_onUpdate h fun _ d c =>
      endsIn_next (shared (of_decide_eq_true hon).1 (fifosStay_tryLock s d c))
  | commit =>
    exact guarded fun hon => endsIn_onUpdate h fun e d c => endsIn_atOwnSlot fun k =>
      shared (of_decide_eq_true hon).1 ((start.setLock _).ownStep k e d c)
  | unlinkedExec =>
    refine guarded fun hon => endsIn_next (h.stay (fifosStay_unlinkedAnswer s) fun _ hno => ?_)
    exact absurd (of_decide_eq_true hon).1 hno
  | queryExec => exact guarded fun _ => endsIn_next (h.setMe rfl rfl)
  | pOpen =>
    refine guarded fun hon => endsIn_next ?_
    obtain ⟨hm, _, hq⟩ := of_decide_eq_true hon
    have drawn : PipeFrom s.afterDraw.mode n s.afterDraw s.afterDraw.me r := by
      rw [afterDraw_mode]
      exact h.stay start.afterDraw fun _ _ => by rw [afterDraw_me]; exact ⟨rfl, rfl⟩
    exact afterDraw_mode s ▸ pipeFrom_pOpen drawn (by rwa [afterDraw_mode]) (by rwa [afterDraw_me]) _
  | pUpdate =>
    refine guarded fun hon => endsIn_onUpdate h fun e d c => endsIn_needStore ?_
    obtain ⟨hm, _, hq⟩ := of_decide_eq_true hon
    exact pipeFrom_pUpdate h hm hq hdepth e d c
  | pClose => exact guarded fun hon => endsIn_next (pipeFrom_pClose h (of_decide_eq_true hon).1)
  | cSendAttach =>
    intro u hu
    by_cases hm : s.mode = .pipeChild
    · exact child hm fun hs => childStreams_execCSendAttach hs hdepth u hu
    · have hwaits : execCSendAttach s = .next s := if_neg fun hc => hm hc.1
      cases hwaits.symm.trans hu
      exact h
  | cRecvAttach =>
    refine guarded fun hon => endsIn_next ?_
    obtain ⟨hm, _, hq⟩ := of_decide_eq_true hon
    exact child hm fun hs => childStreams_cRecv hs hq
  | cUpdate =>
    refine guarded fun hon => endsIn_onUpdate h fun e d c => endsIn_next ?_
    obtain ⟨hm, _, hq⟩ := of_decide_eq_true hon
    refine child hm fun ⟨hc, hq', hp'⟩ => ?_
    exact childStreams_cUpdate (l := s.me.accumulated e) ⟨pipeContents_congr rfl rfl hc, hq', hp'⟩ hq hdepth d c
  | cClose =>
    refine guarded fun hon => endsIn_next ?_
    obtain ⟨hm, _, hq, _⟩ := of_decide_eq_true hon
    exact child hm fun hs => childStreams_cClose hs hq
  | trivialExec =>
    exact guarded fun _ => endsIn_next (h.stay (fifosStay_trivialAnswer s) fun _ _ => trivialAnswer_place s)
  | illegalExec =>
    refine guarded fun _ => endsIn_next ?_
    rw [setMe_respond]
    exact h.setMe rfl rfl

/-! From an action to the step (R3, R5) -/

/-- The acting side's command and host have changed, as the host's own moves do (R42, R79). -/
def State.hostMoved (s : State) (cmd : Cmd) (host : HostState) : State :=
  s.setMe { s.me with cmd := cmd, host := host }

/-- All a side's action can be: a move of its host, and then at most one instruction (R3, R33). -/
theorem runSide_eq_next {s t : State} (h : runSide s = .next t) :
    ∃ cmd host, t = s.hostMoved cmd host ∨ ∃ i, exec i (s.hostMoved cmd host) = .next t := by
  have idle : s.hostMoved s.me.cmd s.me.host = s := setSide_self s s.turn
  have popped : s.hostMoved s.me.cmd { s.me.host with inbox := s.me.host.inbox.tail } = s.popInbox := rfl
  cases hf : fetch s with
  | idle =>
    cases (runSide_idle hf).symm.trans h
    exact ⟨_, _, .inl idle.symm⟩
  | response bytes =>
    cases hd : decodeResponse bytes with
    | ok i => exact ⟨_, _, .inr ⟨i, idle.symm ▸ (runSide_response hf hd).symm.trans h⟩⟩
    | error err => exact nomatch (runSide_response_error hf hd).symm.trans h
  | request bytes =>
    cases hd : decodeRequest bytes with
    | ok i => exact ⟨_, _, .inr ⟨i, popped ▸ (runSide_request hf hd).symm.trans h⟩⟩
    | error err =>
      cases (runSide_request_error hf hd).symm.trans h
      refine ⟨.illegal, { s.me.host with inbox := s.me.host.inbox.tail }, .inl ?_⟩
      simp [State.takeIllegal, State.issue, State.popInbox, State.hostMoved]
  | cpuWrite isSB v =>
    cases (runSide_cpuWrite hf).symm.trans h
    rw [popInbox_cpuWrite]
    exact ⟨s.me.cmd, _, .inl rfl⟩
  | uop code =>
    cases hd : decodeUop code with
    | some i => exact ⟨_, _, .inr ⟨i, idle.symm ▸ (runSide_uop hf hd).symm.trans h⟩⟩
    | none => exact nomatch (runSide_uop_none hf hd).symm.trans h

theorem pipeOk_of_exec {i : Instr} {s t : State} (hlegal : s.cfg.legalModePair = true) (hdepth : 8 ≤ s.cfg.fifoDepth)
    (h : pipeOk s) (he : exec i s = .next t) : pipeOk t := by
  obtain ⟨hcfg, hturn, hother⟩ := frame_of_exec he
  have hme : t.side s.turn = t.me := hturn ▸ rfl
  have hfrom := pipeFrom_of_exec (not_two_children hlegal s.turn) hdepth ((pipeOk_iff s s.turn).1 h) he
  rw [pipeOk_iff t s.turn, hcfg, hme, hother]
  exact hfrom

theorem pipeOk_hostMoved {s : State} (h : pipeOk s) (cmd : Cmd) (host : HostState) : pipeOk (s.hostMoved cmd host) := by
  have hfrom : PipeFrom s.mode _ s s.me _ := (pipeOk_iff s s.turn).1 h
  have hset := hfrom.setMe (l := { s.me with cmd := cmd, host := host }) rfl rfl
  rw [setMe_me] at hset
  rw [pipeOk_iff _ s.turn, State.hostMoved, setMe_cfg, setMe_side_other, setMe_side_turn]
  exact hset

theorem pipeOk_chooseSide {s : State} (h : pipeOk s) : pipeOk s.chooseSide := by
  simpa [pipeOk, pipeSideOk] using h

/-- A child's streams bound both FIFOs, and without a child both are empty (R124). -/
theorem length_of_pipeOk {s : State} (h : pipeOk s) : s.c2p.bytes.length ≤ 8 ∧ s.p2c.bytes.length ≤ 5 := by
  obtain ⟨hchild, hempty⟩ := h
  by_cases hA : s.cfg.modeA = .pipeChild
  · exact length_of_pipeContents (hchild .A hA).1
  by_cases hB : s.cfg.modeB = .pipeChild
  · exact length_of_pipeContents (hchild .B hB).1
  obtain ⟨hq, hp⟩ := hempty hA hB
  simp [hq, hp]

/-- Settles O59: the chosen side's host moves, at most one meaning runs, and each keeps the contents of R124. -/
theorem stepKeepsThePipeContents : Obligations.StepKeepsThePipeContents := by
  refine ⟨fun s t hlegal hdepth h hstep => ?_, fun s _ h => length_of_pipeOk h⟩
  obtain ⟨cmd, host, hrun⟩ := runSide_eq_next ((step_of_legal hlegal).symm.trans hstep)
  have hmoved : pipeOk (s.chooseSide.hostMoved cmd host) := pipeOk_hostMoved (pipeOk_chooseSide h) cmd host
  have hcfg : (s.chooseSide.hostMoved cmd host).cfg = s.cfg := (setMe_cfg _ _).trans (chooseSide_cfg s)
  obtain rfl | ⟨i, he⟩ := hrun
  · exact hmoved
  · exact pipeOk_of_exec (by rwa [hcfg]) (by rwa [hcfg]) hmoved he

end Sys2Proof.Machine
end

section
/-! PROOFS. The two sides apart (10_state.md section 4, R155): each operation and each meaning on a state with another
local state on the other side, and the statements O51 and O52. -/

namespace Sys2Proof.Machine

/-- Settles O51: every elementary change of an action keeps the turn and the other side's local state. -/
theorem otherSideIsNotWritten : Obligations.OtherSideIsNotWritten :=
  fun _ _ _ h => (frame_of_exec h).2

/-- The state with local state `l` on the side that has not the turn. -/
def State.withOther (s : State) (l : SideState) : State := s.setSide (otherSide s.turn) l

/-- What a meaning answers, with local state `l` on the other side of a next state. -/
def withOtherIn (l : SideState) : Result → Result
  | .next t => .next (t.withOther l)
  | .fault f => .fault f
  | .refused q => .refused q

section
variable (s : State) (l : SideState)

/-! What the acting side reads (R14) -/

@[simp] theorem withOther_me : (s.withOther l).me = s.me := by
  rw [State.me, State.withOther, setSide_turn, setSide_side_ne _ _ _ _ (otherSide_ne s.turn).symm, State.me]
@[simp] theorem withOther_cfg : (s.withOther l).cfg = s.cfg := setSide_cfg _ _ _
@[simp] theorem withOther_turn : (s.withOther l).turn = s.turn := setSide_turn _ _ _
@[simp] theorem withOther_mode : (s.withOther l).mode = s.mode := by simp [State.mode]
@[simp] theorem withOther_storeExists : (s.withOther l).storeExists = s.storeExists := setSide_storeExists _ _ _
@[simp] theorem withOther_storeGen : (s.withOther l).storeGen = s.storeGen := setSide_storeGen _ _ _
@[simp] theorem withOther_store : (s.withOther l).store = s.store := setSide_store _ _ _
@[simp] theorem withOther_lockOwner : (s.withOther l).lockOwner = s.lockOwner := setSide_lockOwner _ _ _
@[simp] theorem withOther_c2p : (s.withOther l).c2p = s.c2p := setSide_c2p _ _ _
@[simp] theorem withOther_p2c : (s.withOther l).p2c = s.p2c := setSide_p2c _ _ _
@[simp] theorem withOther_schedule : (s.withOther l).schedule = s.schedule := setSide_schedule _ _ _
@[simp] theorem withOther_oracle : (s.withOther l).oracle = s.oracle := setSide_oracle _ _ _
@[simp] theorem withOther_draws : (s.withOther l).draws = s.draws := setSide_draws _ _ _
@[simp] theorem withOther_drawn : (s.withOther l).drawn = s.drawn := by simp [State.drawn]
@[simp] theorem withOther_storeIsMine : (s.withOther l).storeIsMine = s.storeIsMine := by simp [State.storeIsMine]
@[simp] theorem withOther_eofP2C : (s.withOther l).eofP2C = s.eofP2C := by simp [State.eofP2C]

/-- R77's conditions speak of the acting side's local state and what the sides share. -/
@[simp] theorem withOther_enabled (i : Instr) : enabled (s.withOther l) i = enabled s i := by
  cases i <;> simp [enabled]

/-! The shared operations (R14, R122) -/

@[simp] theorem withOther_setMe (k : SideState) : (s.withOther l).setMe k = (s.setMe k).withOther l := by
  rw [State.setMe, withOther_turn, State.withOther, State.withOther, setMe_turn, State.setMe]
  cases s.turn <;> rfl

/-- A write of fields the sides share. -/
@[simp] theorem withOther_mk (cfg : Params) (ex : Bool) (gen : Nat) (m : Memory)
    (lock : Option Side) (q r : Fifo) (sched : List Side) (oracle : List Bool) (draws : Nat) :
    State.mk cfg s.turn ex gen m lock q r (s.withOther l).sideA (s.withOther l).sideB sched oracle draws =
      (State.mk cfg s.turn ex gen m lock q r s.sideA s.sideB sched oracle draws).withOther l := by
  unfold State.withOther
  cases s.turn <;> rfl

theorem withOther_withStore (m : Memory) :
    ({ s.withOther l with store := m } : State) = ({ s with store := m } : State).withOther l := by
  simp

theorem withOther_withLockOwner (o : Option Side) :
    ({ s.withOther l with lockOwner := o } : State) = ({ s with lockOwner := o } : State).withOther l := by
  simp

theorem ite_withOther (c : Prop) [Decidable c] (t u : State) :
    (if c then t.withOther l else u.withOther l) = (if c then t else u).withOther l :=
  (apply_ite (State.withOther · l) c t u).symm

@[simp] theorem withOther_respond (f : Instr) : (s.withOther l).respond f = (s.respond f).withOther l := by
  simp [State.respond]
@[simp] theorem withOther_receive (f : Instr) : (s.withOther l).receive f = (s.receive f).withOther l := by
  simp [State.receive]
@[simp] theorem withOther_issue (cmd : Cmd) : (s.withOther l).issue cmd = (s.issue cmd).withOther l := by
  simp [State.issue]
@[simp] theorem withOther_afterDraw : (s.withOther l).afterDraw = s.afterDraw.withOther l := by
  unfold State.afterDraw
  rw [withOther_oracle]
  cases s.oracle <;> simp
@[simp] theorem withOther_pushC2P (f : Instr) : (s.withOther l).pushC2P f = (s.pushC2P f).withOther l := by
  simp [State.pushC2P]
@[simp] theorem withOther_pushP2C (f : Instr) : (s.withOther l).pushP2C f = (s.pushP2C f).withOther l := by
  simp [State.pushP2C]
@[simp] theorem withOther_popC2P (rest : List Byte) : (s.withOther l).popC2P rest = (s.popC2P rest).withOther l := by
  simp [State.popC2P]
@[simp] theorem withOther_popP2C (rest : List Byte) : (s.withOther l).popP2C rest = (s.popP2C rest).withOther l := by
  simp [State.popP2C]
@[simp] theorem withOther_closeC2P : (s.withOther l).closeC2P = s.closeC2P.withOther l := by simp [State.closeC2P]
@[simp] theorem withOther_closeP2C : (s.withOther l).closeP2C = s.closeP2C.withOther l := by simp [State.closeP2C]
@[simp] theorem withOther_createStore : (s.withOther l).createStore = s.createStore.withOther l := by
  simp [State.createStore]
@[simp] theorem withOther_destroyStore : (s.withOther l).destroyStore = s.destroyStore.withOther l := by
  simp [State.destroyStore]
@[simp] theorem withOther_ownStep (i : Slot) (e : Word) (d c : Byte) :
    (s.withOther l).ownStep i e d c = (s.ownStep i e d c).withOther l := by
  simp [State.ownStep]


/-! The shared transport (R82 to R88) -/

@[simp] theorem withOther_attachFails : (s.withOther l).attachFails = s.attachFails.withOther l := by
  simp [State.attachFails]

theorem withOther_createOrOpen (fail : Bool) :
    createOrOpen (s.withOther l) fail = (createOrOpen s fail).withOther l := by
  rw [createOrOpen, withOther_createStore, withOther_withLockOwner]
  simp [createOrOpen, ite_withOther]

theorem withOther_initRegion : initRegion (s.withOther l) = (initRegion s).withOther l := by simp [initRegion]

theorem withOther_publish : publish (s.withOther l) = (publish s).withOther l := by simp [publish]

theorem withOther_pollInit : pollInit (s.withOther l) = (pollInit s).withOther l := by
  simp [pollInit, pollAgain, ite_withOther]

theorem withOther_claimSlot : claimSlot (s.withOther l) = (claimSlot s).withOther l := by
  unfold claimSlot
  cases h : freeSlot s.store <;> simp [h, ite_withOther]

theorem withOther_detachFrom (i : Slot) : detachFrom (s.withOther l) i = (detachFrom s i).withOther l := by
  simp [detachFrom, ite_withOther]

/-! The piped transport (R125 to R132) -/

@[simp] theorem withOther_pipeAttachFails (st : Byte) :
    (s.withOther l).pipeAttachFails st = (s.pipeAttachFails st).withOther l := by
  simp [State.pipeAttachFails]

theorem withOther_pOpen (fail : Bool) : pOpen (s.withOther l) fail = (pOpen s fail).withOther l := by
  simp only [pOpen, withOther_createStore]
  rw [withOther_withStore]
  simp [ite_withOther]

theorem withOther_serviceAttach : serviceAttach (s.withOther l) = (serviceAttach s).withOther l := by
  simp [serviceAttach, ite_withOther]

theorem withOther_serviceUpdate (e : Word) (d c : Byte) :
    serviceUpdate (s.withOther l) e d c = (serviceUpdate s e d c).withOther l := by
  simp [serviceUpdate, ite_withOther]

theorem withOther_serviceFrame (f : ChildFrame) :
    serviceFrame (s.withOther l) f = (serviceFrame s f).withOther l := by
  cases f with
  | attach => exact withOther_serviceAttach s l
  | update e d c => exact withOther_serviceUpdate s l e d c
  | detach | junk => simp [serviceFrame]

@[simp] theorem withOther_service : service (s.withOther l) = (service s).withOther l := by
  unfold service
  rw [withOther_c2p]
  cases headC2P s.c2p.bytes with
  | none => simp [ite_withOther]
  | some p => simp [withOther_serviceFrame, ite_withOther]

theorem withOther_pClose : pClose (s.withOther l) = (pClose s).withOther l := by simp [pClose]

theorem withOther_cSendFails : cSendFails (s.withOther l) = (cSendFails s).withOther l := by simp [cSendFails]

theorem withOther_cSend : cSend (s.withOther l) = (cSend s).withOther l := by simp [cSend]

@[simp] theorem withOther_cAttachFails (st : Byte) :
    cAttachFails (s.withOther l) st = (cAttachFails s st).withOther l := by
  simp [cAttachFails]

@[simp] theorem withOther_cPollAgain : cPollAgain (s.withOther l) = (cPollAgain s).withOther l := by
  simp [cPollAgain, ite_withOther]

@[simp] theorem withOther_cDiscard (rest : List Byte) :
    cDiscard (s.withOther l) rest = (cDiscard s rest).withOther l := by
  simp [cDiscard]

theorem withOther_cRecv : cRecv (s.withOther l) = (cRecv s).withOther l := by
  unfold cRecv
  rw [withOther_p2c]
  cases headP2C s.p2c.bytes with
  | none => simp [ite_withOther]
  | some p =>
    obtain ⟨f, rest⟩ := p
    cases f <;> simp [ite_withOther]

@[simp] theorem withOther_cAccumulate (e : Word) :
    cAccumulate (s.withOther l) e = (cAccumulate s e).withOther l := by
  simp [cAccumulate]

theorem withOther_cEof (d c : Byte) : cEof (s.withOther l) d c = (cEof s d c).withOther l := by simp [cEof]

@[simp] theorem withOther_cRequest (d c : Byte) : cRequest (s.withOther l) d c = (cRequest s d c).withOther l := by
  simp [cRequest, ite_withOther]

@[simp] theorem withOther_cAnswer (d c : Byte) (result : Option Byte) :
    cAnswer (s.withOther l) d c result = (cAnswer s d c result).withOther l := by
  simp [cAnswer]

@[simp] theorem withOther_cAnswered (d c nd nc fl st : Byte) :
    cAnswered (s.withOther l) d c nd nc fl st = (cAnswered s d c nd nc fl st).withOther l := by
  simp [cAnswered, ite_withOther]

theorem withOther_cReceive (d c : Byte) : cReceive (s.withOther l) d c = (cReceive s d c).withOther l := by
  unfold cReceive
  rw [withOther_p2c]
  cases headP2C s.p2c.bytes with
  | none => exact withOther_cAnswer s l d c none
  | some p =>
    obtain ⟨f, rest⟩ := p
    cases f <;> simp

theorem withOther_cUpdate (d c : Byte) : cUpdate (s.withOther l) d c = (cUpdate s d c).withOther l := by
  simp [cUpdate, withOther_cEof, withOther_cReceive, ite_withOther]

theorem withOther_cClose : cClose (s.withOther l) = (cClose s).withOther l := by
  simp [cClose, ite_withOther]

/-! The port adapter (R110 to R117) -/

@[simp] theorem withOther_passThrough (d c st : Byte) :
    (s.withOther l).passThrough d c st = (s.passThrough d c st).withOther l := by
  simp [State.passThrough]

theorem withOther_lockAcquire (granted : Bool) (d c : Byte) :
    lockAcquire (s.withOther l) granted d c = (lockAcquire s granted d c).withOther l := by
  simp [lockAcquire, ite_withOther]

theorem withOther_tryLock (d c : Byte) : tryLock (s.withOther l) d c = (tryLock s d c).withOther l := by
  simp [tryLock, withOther_lockAcquire, ite_withOther]

theorem withOther_commitUpdate (i : Slot) (e : Word) (d c : Byte) :
    commitUpdate (s.withOther l) i e d c = (commitUpdate s i e d c).withOther l := by
  simp [commitUpdate]

theorem withOther_unlinkedAnswer : unlinkedAnswer (s.withOther l) = (unlinkedAnswer s).withOther l := by
  unfold unlinkedAnswer
  rw [withOther_me]
  cases s.me.cmd <;> simp

theorem withOther_trivialAnswer : trivialAnswer (s.withOther l) = (trivialAnswer s).withOther l := by
  unfold trivialAnswer
  rw [withOther_me]
  cases s.me.cmd <;> simp [ite_withOther]

/-! The frames of the meanings: when they run, and when they stop (R14, R20, R34; log 21) -/

theorem withOther_whenEnabled {i : Instr} {p q : Result} (h : p = withOtherIn l q) :
    whenEnabled (s.withOther l) i p = withOtherIn l (whenEnabled s i q) := by
  rw [whenEnabled, withOther_enabled, h, whenEnabled, apply_ite (withOtherIn l)]
  rfl

theorem withOther_needStore {t u : State} (h : t = u.withOther l) :
    needStore (s.withOther l) t = withOtherIn l (needStore s u) := by
  rw [needStore, withOther_storeExists, h, needStore, apply_ite (withOtherIn l)]
  rfl

theorem withOther_atOwnSlot {j k : Slot → Result} (h : ∀ i, j i = withOtherIn l (k i)) :
    atOwnSlot (s.withOther l) j = withOtherIn l (atOwnSlot s k) := by
  rw [atOwnSlot, withOther_storeExists, withOther_me, atOwnSlot, apply_ite (withOtherIn l)]
  cases Slot.ofByte s.me.slot with
  | none => rfl
  | some i => exact if_congr Iff.rfl (h i) rfl

theorem withOther_onUpdate {j k : Word → Byte → Byte → Result} (h : ∀ e d c, j e d c = withOtherIn l (k e d c)) :
    onUpdate (s.withOther l) j = withOtherIn l (onUpdate s k) := by
  rw [onUpdate, withOther_me, onUpdate]
  cases s.me.cmd with
  | update e d c => exact h e d c
  | _ => rfl

theorem withOther_execCSendAttach : execCSendAttach (s.withOther l) = withOtherIn l (execCSendAttach s) := by
  simp only [execCSendAttach, withOther_mode, withOther_me, withOther_drawn, withOther_enabled, withOther_afterDraw,
    withOther_cSendFails, withOther_cSend, ite_withOther, apply_ite (withOtherIn l)]
  rfl

/-- No meaning reads the other side's local state: with any other there, it answers the same (R155). -/
theorem exec_withOther (i : Instr) : exec i (s.withOther l) = withOtherIn l (exec i s) := by
  have answer {t u : State} (h : t = u.withOther l) : (.next t : Result) = withOtherIn l (.next u) := congrArg _ h
  have guarded {j : Instr} {p q : Result} (h : p = withOtherIn l q) :
      whenEnabled (s.withOther l) j p = withOtherIn l (whenEnabled s j q) := withOther_whenEnabled s l h
  cases i with
  | attach | detach | query | update => exact guarded (answer (withOther_issue s l _))
  | attachRsp | detachRsp | queryRsp | errorRsp => exact answer (withOther_receive s l _)
  | updateRsp => exact answer (by simp)
  | createOrOpen => exact guarded (answer (by rw [withOther_afterDraw, withOther_drawn, withOther_createOrOpen]))
  | initRegion => exact guarded (withOther_needStore s l (withOther_initRegion s l))
  | publish => exact guarded (withOther_needStore s l (withOther_publish s l))
  | pollInit => exact guarded (answer (withOther_pollInit s l))
  | claimSlot => exact guarded (answer (withOther_claimSlot s l))
  | detachExec => exact guarded (withOther_atOwnSlot s l fun k => answer (withOther_detachFrom s l k))
  | lockAcquire => exact guarded (withOther_onUpdate s l fun _ d c => answer (withOther_tryLock s l d c))
  | commit =>
    exact guarded (withOther_onUpdate s l fun e d c =>
      withOther_atOwnSlot s l fun k => answer (withOther_commitUpdate s l k e d c))
  | unlinkedExec => exact guarded (answer (withOther_unlinkedAnswer s l))
  | queryExec => exact guarded (answer (by rw [withOther_me, withOther_respond]))
  | pOpen => exact guarded (answer (by rw [withOther_afterDraw, withOther_drawn, withOther_pOpen]))
  | pUpdate =>
    exact guarded (withOther_onUpdate s l fun _ _ _ =>
      withOther_needStore s l (by rw [withOther_service, withOther_ownStep]))
  | pClose => exact guarded (answer (withOther_pClose s l))
  | cSendAttach => exact withOther_execCSendAttach s l
  | cRecvAttach => exact guarded (answer (withOther_cRecv s l))
  | cUpdate =>
    exact guarded (withOther_onUpdate s l fun _ d c =>
      answer (by rw [withOther_cAccumulate, withOther_cUpdate]))
  | cClose => exact guarded (answer (withOther_cClose s l))
  | trivialExec => exact guarded (answer (withOther_trivialAnswer s l))
  | illegalExec => exact guarded (answer (by simp))

end

/-- Settles O52: the meaning answers the same, and the next state has the same turn, hence the same other side. -/
theorem otherSideIsNotRead : Obligations.OtherSideIsNotRead := by
  intro i s l
  have hsame : exec i (s.setSide (otherSide s.turn) l) = withOtherIn l (exec i s) := exec_withOther s l i
  rw [hsame]
  cases he : exec i s with
  | next t => rw [withOtherIn, State.withOther, (otherSideIsNotWritten i s t he).1]
  | fault | refused => rfl

end Sys2Proof.Machine
end
